-- ==== Sys2Proof/Word.lean ====
section
/-! DEFINITION. The widths of the machine's values (spec/00_scope.md R8, R9). -/

namespace Sys2Proof

/-- A general register, a timer, a byte of memory (R8 `REG_BITS`). -/
abbrev Byte := BitVec 8

/-- An instruction word, `I`, `pc`, a stack entry (R8 `I_BITS`, `PC_BITS`; 30_encoding.md R91). -/
abbrev Word := BitVec 16

/-- A register number: the 4-bit operand X or Y, all 16 values legal (30_encoding.md R92, R94). -/
abbrev RegIdx := BitVec 4

/-- A 4-bit value that is no register number: the count N, a key, a digit (R92, 10_state.md R35). -/
abbrev Nibble := BitVec 4

/-- The 12-bit address operand NNN (30_encoding.md R92). -/
abbrev Addr12 := BitVec 12

end Sys2Proof
end

