-- ==== Sys2Proof/Syntax.lean ====
section
/-! DEFINITION. The 35 operations, one constructor per row of spec/opcode_table.json in the table's order
(30_encoding.md R96). Operand fields are the decoded fields of R92. -/

namespace Sys2Proof

/-- An instruction with its operand fields. SHR and SHL carry the field Y that is "encoded and ignored"
(42_alu.md R169, R171); SE Vx,Vy and SNE Vx,Vy do not carry w[3:0], which takes no part (30_encoding.md R97). -/
inductive Instr where
  | cls
  | ret
  | sys (nnn : Addr12)
  | jp (nnn : Addr12)
  | call (nnn : Addr12)
  | seImm (x : RegIdx) (kk : Byte)
  | sneImm (x : RegIdx) (kk : Byte)
  | seReg (x y : RegIdx)
  | ldImm (x : RegIdx) (kk : Byte)
  | addImm (x : RegIdx) (kk : Byte)
  | ldReg (x y : RegIdx)
  | orReg (x y : RegIdx)
  | andReg (x y : RegIdx)
  | xorReg (x y : RegIdx)
  | addReg (x y : RegIdx)
  | subReg (x y : RegIdx)
  | shr (x y : RegIdx)
  | subnReg (x y : RegIdx)
  | shl (x y : RegIdx)
  | sneReg (x y : RegIdx)
  | ldI (nnn : Addr12)
  | jpV0 (nnn : Addr12)
  | rnd (x : RegIdx) (kk : Byte)
  | drw (x y : RegIdx) (n : Nibble)
  | skp (x : RegIdx)
  | sknp (x : RegIdx)
  | ldVxDt (x : RegIdx)
  | ldVxK (x : RegIdx)
  | ldDtVx (x : RegIdx)
  | ldStVx (x : RegIdx)
  | addI (x : RegIdx)
  | ldF (x : RegIdx)
  | ldB (x : RegIdx)
  | ldMemVx (x : RegIdx)
  | ldVxMem (x : RegIdx)
  deriving DecidableEq, Repr

end Sys2Proof
end

