-- ==== Sys2Proof/Decode.lean ====
section
/-! DEFINITION. Decoding (spec/30_encoding.md R92, R95 to R99, 40_tick.md R123), total on any word and on any
bytes and rejecting by name, and after it the encoder (R103). -/

namespace Sys2Proof

/-! The fields of R92, cut from the word "by fixed bit masks". -/

def fieldClass (w : Word) : Nibble := w.extractLsb' 12 4
def fieldNNN (w : Word) : Addr12 := w.extractLsb' 0 12
def fieldX (w : Word) : RegIdx := w.extractLsb' 8 4
def fieldY (w : Word) : RegIdx := w.extractLsb' 4 4
def fieldKK (w : Word) : Byte := w.extractLsb' 0 8
def fieldN (w : Word) : Nibble := w.extractLsb' 0 4

/-- Class 0x0: the sub-opcode is w[11:0] (R95, R99). -/
def decodeClass0 (nnn : Addr12) : Instr :=
  if nnn = 0x0E0 then .cls else if nnn = 0x0EE then .ret else .sys nnn

/-- Class 0x8: the sub-opcode is w[3:0] (R95). -/
def decodeClass8 (x y : RegIdx) (n : Nibble) : Option Instr :=
  if n = 0x0 then some (.ldReg x y)
  else if n = 0x1 then some (.orReg x y)
  else if n = 0x2 then some (.andReg x y)
  else if n = 0x3 then some (.xorReg x y)
  else if n = 0x4 then some (.addReg x y)
  else if n = 0x5 then some (.subReg x y)
  else if n = 0x6 then some (.shr x y)
  else if n = 0x7 then some (.subnReg x y)
  else if n = 0xE then some (.shl x y)
  else none

/-- Class 0xE: the sub-opcode is w[7:0] (R95). -/
def decodeClassE (x : RegIdx) (kk : Byte) : Option Instr :=
  if kk = 0x9E then some (.skp x)
  else if kk = 0xA1 then some (.sknp x)
  else none

/-- Class 0xF: the sub-opcode is w[7:0] (R95). -/
def decodeClassF (x : RegIdx) (kk : Byte) : Option Instr :=
  if kk = 0x07 then some (.ldVxDt x)
  else if kk = 0x0A then some (.ldVxK x)
  else if kk = 0x15 then some (.ldDtVx x)
  else if kk = 0x18 then some (.ldStVx x)
  else if kk = 0x1E then some (.addI x)
  else if kk = 0x29 then some (.ldF x)
  else if kk = 0x33 then some (.ldB x)
  else if kk = 0x55 then some (.ldMemVx x)
  else if kk = 0x65 then some (.ldVxMem x)
  else none

/-- The decode procedure of R95: `none` is `undefined` (R98). -/
def decodeWord (w : Word) : Option Instr :=
  let c := fieldClass w
  let x := fieldX w
  let y := fieldY w
  let n := fieldN w
  let kk := fieldKK w
  let nnn := fieldNNN w
  if c = 0x0 then some (decodeClass0 nnn)
  else if c = 0x1 then some (.jp nnn)
  else if c = 0x2 then some (.call nnn)
  else if c = 0x3 then some (.seImm x kk)
  else if c = 0x4 then some (.sneImm x kk)
  else if c = 0x5 then some (.seReg x y)
  else if c = 0x6 then some (.ldImm x kk)
  else if c = 0x7 then some (.addImm x kk)
  else if c = 0x8 then decodeClass8 x y n
  else if c = 0x9 then some (.sneReg x y)
  else if c = 0xA then some (.ldI nnn)
  else if c = 0xB then some (.jpV0 nnn)
  else if c = 0xC then some (.rnd x kk)
  else if c = 0xD then some (.drw x y n)
  else if c = 0xE then decodeClassE x kk
  else decodeClassF x kk

/-- Why bytes are no instruction. -/
inductive Rejection where
  /-- The whole word selects no operation (R98). -/
  | undefinedOpcode (w : Word)
  /-- Fewer than the two bytes every instruction has (R91). -/
  | truncated
  deriving DecidableEq, Repr

/-- What the decoder reads from bytes: an instruction and the bytes after it, or a rejection by name. -/
inductive Decoded where
  | instr (i : Instr) (rest : List Byte)
  | rejected (why : Rejection)
  deriving DecidableEq, Repr

/-- The word of two bytes, the one at the lower address first (big-endian, 20_memory.md R63). -/
def wordOfBytes (hi lo : Byte) : Word := hi ++ lo

/-- The two bytes of a word in the order they stand in memory (20_memory.md R63, 30_encoding.md R103). -/
def bytesOfWord (w : Word) : List Byte := [w.extractLsb' 8 8, w.extractLsb' 0 8]

/-- Decoding of any bytes. -/
def decode : List Byte → Decoded
  | hi :: lo :: rest =>
    match decodeWord (wordOfBytes hi lo) with
    | some i => .instr i rest
    | none => .rejected (.undefinedOpcode (wordOfBytes hi lo))
  | [_] => .rejected .truncated
  | [] => .rejected .truncated

/-! The encoder, format by format (R93, R103). The bits that take no part, w[3:0] of SE Vx,Vy and SNE Vx,Vy,
are 0, as an assembler emits them (R97, R101). -/

/-- Format A: class, NNN. -/
def formatA (c : Nibble) (nnn : Addr12) : Word := c ++ nnn
/-- Format I: class, X, KK. -/
def formatI (c : Nibble) (x : RegIdx) (kk : Byte) : Word := c ++ x ++ kk
/-- Format R: class, X, Y, N or sub-opcode. -/
def formatR (c : Nibble) (x y : RegIdx) (n : Nibble) : Word := c ++ x ++ y ++ n
/-- Format F: class, X, sub-opcode in w[7:0]. -/
def formatF (c : Nibble) (x : RegIdx) (sub : Byte) : Word := c ++ x ++ sub

/-- The word of an instruction (R96 patterns, R103). -/
def encode : Instr → Word
  | .cls => 0x00E0
  | .ret => 0x00EE
  | .sys nnn => formatA 0x0 nnn
  | .jp nnn => formatA 0x1 nnn
  | .call nnn => formatA 0x2 nnn
  | .seImm x kk => formatI 0x3 x kk
  | .sneImm x kk => formatI 0x4 x kk
  | .seReg x y => formatR 0x5 x y 0x0
  | .ldImm x kk => formatI 0x6 x kk
  | .addImm x kk => formatI 0x7 x kk
  | .ldReg x y => formatR 0x8 x y 0x0
  | .orReg x y => formatR 0x8 x y 0x1
  | .andReg x y => formatR 0x8 x y 0x2
  | .xorReg x y => formatR 0x8 x y 0x3
  | .addReg x y => formatR 0x8 x y 0x4
  | .subReg x y => formatR 0x8 x y 0x5
  | .shr x y => formatR 0x8 x y 0x6
  | .subnReg x y => formatR 0x8 x y 0x7
  | .shl x y => formatR 0x8 x y 0xE
  | .sneReg x y => formatR 0x9 x y 0x0
  | .ldI nnn => formatA 0xA nnn
  | .jpV0 nnn => formatA 0xB nnn
  | .rnd x kk => formatI 0xC x kk
  | .drw x y n => formatR 0xD x y n
  | .skp x => formatF 0xE x 0x9E
  | .sknp x => formatF 0xE x 0xA1
  | .ldVxDt x => formatF 0xF x 0x07
  | .ldVxK x => formatF 0xF x 0x0A
  | .ldDtVx x => formatF 0xF x 0x15
  | .ldStVx x => formatF 0xF x 0x18
  | .addI x => formatF 0xF x 0x1E
  | .ldF x => formatF 0xF x 0x29
  | .ldB x => formatF 0xF x 0x33
  | .ldMemVx x => formatF 0xF x 0x55
  | .ldVxMem x => formatF 0xF x 0x65

/-- The opcode map of R96 as (mask, match) rows, row 1 first; a word selects the first row with `w & mask = match`. -/
def opcodeRows : List (Word × Word) :=
  [(0xFFFF, 0x00E0), (0xFFFF, 0x00EE), (0xF000, 0x0000), (0xF000, 0x1000), (0xF000, 0x2000)] ++
  [(0xF000, 0x3000), (0xF000, 0x4000), (0xF000, 0x5000), (0xF000, 0x6000), (0xF000, 0x7000)] ++
  [(0xF00F, 0x8000), (0xF00F, 0x8001), (0xF00F, 0x8002), (0xF00F, 0x8003), (0xF00F, 0x8004)] ++
  [(0xF00F, 0x8005), (0xF00F, 0x8006), (0xF00F, 0x8007), (0xF00F, 0x800E), (0xF000, 0x9000)] ++
  [(0xF000, 0xA000), (0xF000, 0xB000), (0xF000, 0xC000), (0xF000, 0xD000), (0xF0FF, 0xE09E)] ++
  [(0xF0FF, 0xE0A1), (0xF0FF, 0xF007), (0xF0FF, 0xF00A), (0xF0FF, 0xF015), (0xF0FF, 0xF018)] ++
  [(0xF0FF, 0xF01E), (0xF0FF, 0xF029), (0xF0FF, 0xF033), (0xF0FF, 0xF055), (0xF0FF, 0xF065)]

/-- The place of the first row of R96 that a word matches, counted from 0. -/
def firstRow (w : Word) : Option Nat := opcodeRows.findIdx? fun r => w &&& r.1 == r.2

/-- The place of an instruction's row in R96, counted from 0. -/
def Instr.row : Instr → Nat
  | .cls => 0
  | .ret => 1
  | .sys _ => 2
  | .jp _ => 3
  | .call _ => 4
  | .seImm _ _ => 5
  | .sneImm _ _ => 6
  | .seReg _ _ => 7
  | .ldImm _ _ => 8
  | .addImm _ _ => 9
  | .ldReg _ _ => 10
  | .orReg _ _ => 11
  | .andReg _ _ => 12
  | .xorReg _ _ => 13
  | .addReg _ _ => 14
  | .subReg _ _ => 15
  | .shr _ _ => 16
  | .subnReg _ _ => 17
  | .shl _ _ => 18
  | .sneReg _ _ => 19
  | .ldI _ => 20
  | .jpV0 _ => 21
  | .rnd _ _ => 22
  | .drw _ _ _ => 23
  | .skp _ => 24
  | .sknp _ => 25
  | .ldVxDt _ => 26
  | .ldVxK _ => 27
  | .ldDtVx _ => 28
  | .ldStVx _ => 29
  | .addI _ => 30
  | .ldF _ => 31
  | .ldB _ => 32
  | .ldMemVx _ => 33
  | .ldVxMem _ => 34

/-- The bytes of an instruction in memory order (R103). -/
def encodeBytes (i : Instr) : List Byte := bytesOfWord (encode i)

/-- The word whose bits are `w`, every bit from `nbits` up being 0 (the host's numbering of a row's bits). -/
def tableWord (nbits w : Nat) : Word := BitVec.ofNat 16 (w % 2 ^ nbits)

/-- The instruction the decoder reads from the bytes of `tableWord nbits w` as they stand in memory. -/
def decodeTableWord (nbits w : Nat) : Option Instr :=
  match decode (bytesOfWord (tableWord nbits w)) with
  | .instr i _ => some i
  | .rejected _ => none

end Sys2Proof
end

