-- ==== Sys2Proof/Config.lean ====
section
/-! DEFINITION. What one implementation fixes: the parameters of spec/00_scope.md R8, the glyph bytes of
20_memory.md R70, and the one free value of the model (the random input, 10_state.md R40). -/

namespace Sys2Proof.Config

/-- `MEM_SIZE`: bytes in the memory image (R8, 20_memory.md R60). -/
abbrev memSize : Nat := 4096

/-- `PROG_BASE`: where programs are loaded and where `pc` starts (R8, 70_reset_and_hazards.md R302). -/
abbrev progBase : Word := 0x200

/-- `NUM_REGS` (R8, 10_state.md R21). -/
abbrev numRegs : Nat := 16

/-- `FLAG_REG`: VF is `x[15]` (R8, 10_state.md R22). -/
abbrev flagReg : RegIdx := 0xF

/-- `STACK_DEPTH`: the most live call-stack entries (R8, 10_state.md R32). -/
abbrev stackDepth : Nat := 16

/-- `GRID_W`: pixel columns (R8, 10_state.md R38). -/
abbrev gridW : Nat := 64

/-- `GRID_H`: pixel rows (R8, 10_state.md R38). -/
abbrev gridH : Nat := 32

/-- `GLYPH_BYTES`, row 0 of glyph 0 first (20_memory.md R69, R70). `GLYPH_BASE` is 0, so the list's
index is the byte's address. -/
def glyphBytes : List Byte :=
  [0xF0, 0x90, 0x90, 0x90, 0xF0] ++ [0x20, 0x60, 0x20, 0x20, 0x70] ++
  [0xF0, 0x10, 0xF0, 0x80, 0xF0] ++ [0xF0, 0x10, 0xF0, 0x10, 0xF0] ++
  [0x90, 0x90, 0xF0, 0x10, 0x10] ++ [0xF0, 0x80, 0xF0, 0x10, 0xF0] ++
  [0xF0, 0x80, 0xF0, 0x90, 0xF0] ++ [0xF0, 0x10, 0x20, 0x40, 0x40] ++
  [0xF0, 0x90, 0xF0, 0x90, 0xF0] ++ [0xF0, 0x90, 0xF0, 0x10, 0xF0] ++
  [0xF0, 0x90, 0xF0, 0x90, 0x90] ++ [0xE0, 0x90, 0xE0, 0x90, 0xE0] ++
  [0xF0, 0x80, 0x80, 0x80, 0xF0] ++ [0xE0, 0x90, 0x90, 0x90, 0xE0] ++
  [0xF0, 0x80, 0xF0, 0x80, 0xF0] ++ [0xF0, 0x80, 0xF0, 0x80, 0x80]

/-- FREE VALUE (DESIGN CHOICE of the form, log entry 2; safe). The random byte that the n-th executed
RND draws when the host has presented no byte of its own: "any value 0 to 255 may be presented, the core
assumes nothing of it" (10_state.md R40). It has no body, so no proof can know one of its values. -/
opaque randByte : Nat → Byte

end Sys2Proof.Config
end

