-- ==== Sys2Proof/Machine/State.lean ====
section
/-! DEFINITION. The state of the core (spec/10_state.md R20), the reports (60_exceptions.md R267), the two reason
types of the host's interface, and the state after reset (10_state.md R43, 70_reset_and_hazards.md R300). -/

namespace Sys2Proof.Machine

/-- Why a step stops with a fault. It has NO constructor: every failure of this machine is a report of a tick
that ends in an ordinary state (60_exceptions.md R260, R261), "a tick always returns" (93_implementation_defined.md
part 1), so no step faults. Safe. -/
inductive Fault where
  deriving DecidableEq, Repr

/-- Why something has no meaning. -/
inductive Refusal where
  /-- Raised by an arm of `exec` whose instruction has no meaning yet (no arm is in that case). Safe. -/
  | notModelled (mnemonic : String)
  /-- Raised by the host operation `keyDown` (no instruction) for a code outside 0 to 15, which "is not a legal
  value of `KEY`; unspecified" (70_reset_and_hazards.md R307, 93_implementation_defined.md U10). Safe. -/
  | keyCodeNotNormalized (code : Nat)
  deriving DecidableEq, Repr

/-- The kind carried by `MemoryOutOfRange` (60_exceptions.md R267). -/
inductive AccessKind where
  | fetch
  | data
  deriving DecidableEq, Repr

/-- The five reports with what each carries (60_exceptions.md R267). -/
inductive Report where
  | undefinedOpcode (w pc : Word)
  | stackUnderflow (pc : Word)
  | stackOverflow (pc : Word)
  | memoryOutOfRange (kind : AccessKind) (addr : Word)
  | loadOverflow (offset len : Nat)
  deriving DecidableEq, Repr

/-- The result of a tick or of a Load: `ok` or exactly one report (60_exceptions.md R260, 40_tick.md R127). -/
inductive Result where
  | ok
  | report (r : Report)
  deriving DecidableEq, Repr

/-- The memory image as (address, byte) pairs, addresses rising, no byte listed that equals what an unlisted
address reads as; reading, writing and the canonical form are in Ops.lean. -/
abbrev Memory := List Host.Cell

/-- The pixel grid, row by row (10_state.md R38). -/
abbrev Grid := Vector (Vector Bool Config.gridW) Config.gridH

/-- The first eleven fields are the core's complete state (R20). The last five are the model's own: the outputs of
the tick, the record of reports that R134 and R261 ask of a model, and the random input (log entries 1 to 3). -/
structure State where
  /-- `MEM`, the memory image (R39). -/
  mem : Memory
  /-- `x[0..15]`; `x[15]` is VF (R21, R22). -/
  x : Vector Byte Config.numRegs
  /-- `I`, the address register (R26). -/
  I : Word
  /-- `pc`, the address of the instruction being executed (R27, R28). -/
  pc : Word
  /-- `STACK[0..15]`; entries at index `SP` and above keep their last value (R31). -/
  stack : Vector Word Config.stackDepth
  /-- `SP`, the number of live stack entries, 0 to 16 (R32). -/
  sp : Fin (Config.stackDepth + 1)
  /-- `DT`, the delay timer (R33). -/
  dt : Byte
  /-- `ST`, the sound timer (R34). -/
  st : Byte
  /-- `KEY`, the input latch: `none` or 0 to 15 (R35). -/
  key : Option Nibble
  /-- `PAUSED`, the pause flag (R37). -/
  paused : Bool
  /-- `GRID`, the pixel grid (R38). -/
  grid : Grid
  /-- The result of the latest tick or Load (40_tick.md R127). -/
  result : Result
  /-- `DRAW_REQ` of the latest tick (45_display.md R238). -/
  drawReq : Bool
  /-- Every report of the run so far, oldest first (40_tick.md R134, 60_exceptions.md R261). -/
  reports : List Report
  /-- The random byte the host has presented to the next tick, if it has presented one (R40). -/
  randIn : Option Byte
  /-- How many RND have been executed: the index of the next free random byte (R40, log entry 2). -/
  randCount : Nat
  deriving DecidableEq, Repr

/-- The machine right after `initialize()` (R43, R300). Memory lists nothing: an unlisted address reads as its
reset contents. The five fields of the model's own start at `ok`, false, nothing recorded, nothing presented,
0 (log entries 2 and 3). -/
def State.reset : State where
  mem := []
  x := Vector.replicate Config.numRegs 0x00
  I := 0x0000
  pc := Config.progBase
  stack := Vector.replicate Config.stackDepth 0x0000
  sp := 0
  dt := 0x00
  st := 0x00
  key := none
  paused := false
  grid := Vector.replicate Config.gridH (Vector.replicate Config.gridW false)
  result := .ok
  drawReq := false
  reports := []
  randIn := none
  randCount := 0

end Sys2Proof.Machine
end

