-- ==== Sys2Proof/Machine/Ops.lean ====
section
/-! DEFINITION. The named operations over the state, the memory and the registers, the bounds checks, RAISING A REPORT
(this machine's exception entry, spec/60_exceptions.md) as one operation, and the phases of a tick around the execute
phase (40_tick.md). There is no return from an exception: "There is no return-from-trap instruction and nothing to
restore" (60_exceptions.md R272). -/

namespace Sys2Proof.Machine

/-- The three outcomes of a step of this machine. -/
abbrev Out := Host.Outcome State Fault Refusal

/-! ## One update per field -/

def State.setMem (s : State) (v : Memory) : State := { s with mem := v }
def State.setX (s : State) (v : Vector Byte Config.numRegs) : State := { s with x := v }
def State.setI (s : State) (v : Word) : State := { s with I := v }
def State.setPc (s : State) (v : Word) : State := { s with pc := v }
def State.setStack (s : State) (v : Vector Word Config.stackDepth) : State := { s with stack := v }
def State.setSp (s : State) (v : Fin (Config.stackDepth + 1)) : State := { s with sp := v }
def State.setDt (s : State) (v : Byte) : State := { s with dt := v }
def State.setSt (s : State) (v : Byte) : State := { s with st := v }
def State.setKey (s : State) (v : Option Nibble) : State := { s with key := v }
def State.setPaused (s : State) (v : Bool) : State := { s with paused := v }
def State.setGrid (s : State) (v : Grid) : State := { s with grid := v }
def State.setResult (s : State) (v : Result) : State := { s with result := v }
def State.setDrawReq (s : State) (v : Bool) : State := { s with drawReq := v }
def State.setReports (s : State) (v : List Report) : State := { s with reports := v }
def State.setRandIn (s : State) (v : Option Byte) : State := { s with randIn := v }
def State.setRandCount (s : State) (v : Nat) : State := { s with randCount := v }

/-! ## Memory (20_memory.md) -/

/-- What an address reads as when nothing has been written to it: its contents after `initialize()`, the glyph table at
0x000 to 0x04F and 0x00 elsewhere (10_state.md R43, 20_memory.md R61, R69, R70). -/
def Memory.unlisted (a : Nat) : Byte := Config.glyphBytes.getD a 0x00

/-- The byte at an address (`MEM[a]`, 00_scope.md R11). -/
def Memory.read : Memory → Nat → Byte
  | [], a => Memory.unlisted a
  | (b, v) :: m, a => if a = b then v else Memory.read m a

/-- `MEM[a] <- v`, keeping the canonical form: every address is writable (R88), nothing has a side effect (R72). -/
def Memory.write : Memory → Nat → Byte → Memory
  | [], a, v => if v = Memory.unlisted a then [] else [(a, v)]
  | (b, w) :: m, a, v =>
    if a < b then (if v = Memory.unlisted a then (b, w) :: m else (a, v) :: (b, w) :: m)
    else if a = b then (if v = Memory.unlisted a then m else (a, v) :: m)
    else (b, w) :: Memory.write m a v

/-- The canonical form: addresses strictly rising, all below `MEM_SIZE`, no entry equal to what its address reads as
unlisted. -/
abbrev Memory.wf (m : Memory) : Prop :=
  m.Pairwise (fun c d => c.1 < d.1) ∧ ∀ c ∈ m, c.1 < Config.memSize ∧ c.2 ≠ Memory.unlisted c.1

/-- Bytes stored at consecutive ascending addresses (R65, R71). -/
def Memory.writeBytes : Memory → Nat → List Byte → Memory
  | m, _, [] => m
  | m, a, b :: bs => Memory.writeBytes (m.write a b) (a + 1) bs

/-- `n` bytes read from consecutive ascending addresses (R65, R71). -/
def Memory.readBytes (m : Memory) (a n : Nat) : List Byte := (List.range n).map fun i => m.read (a + i)

/-- Whether `len` bytes from `base` are inside the memory image, on integers without truncation (R66, R67). -/
def inRange (base len : Nat) : Bool := decide (base + len ≤ Config.memSize)

/-! ## Registers and the flag (10_state.md R21 to R24) -/

/-- `x[r]`. -/
def State.reg (s : State) (r : RegIdx) : Byte := s.x[r.toNat]'r.isLt

/-- `x[r] <- v`. -/
def State.setReg (s : State) (r : RegIdx) (v : Byte) : State := s.setX (s.x.set r.toNat v r.isLt)

/-- `VF <- 1` or `VF <- 0` (R22, R42). -/
def State.setFlag (s : State) (f : Bool) : State := s.setReg Config.flagReg (if f then 0x01 else 0x00)

/-! ## The program counter (00_scope.md R13, 10_state.md R28, R29) -/

/-- "Advance": `pc <- trunc_16(pc + 2)`. -/
def State.advance (s : State) : State := s.setPc (s.pc + 2)

/-- "Skip": `pc <- trunc_16(pc + 4)`. -/
def State.skip (s : State) : State := s.setPc (s.pc + 4)

/-- Skip if the condition holds, else advance. -/
def State.skipIf (s : State) (c : Bool) : State := if c then s.skip else s.advance

/-! ## The call stack (10_state.md R31, R32) -/

/-- `STACK[SP] <- v; SP <- SP + 1`, or `none` when `SP = STACK_DEPTH`. -/
def State.push (s : State) (v : Word) : Option State :=
  if h : s.sp.val < Config.stackDepth then
    some ((s.setStack (s.stack.set s.sp.val v h)).setSp ⟨s.sp.val + 1, Nat.succ_lt_succ h⟩)
  else none

/-- `SP <- SP - 1` with the entry `STACK[SP]` so uncovered, which keeps its value (R31); `none` when `SP = 0`. -/
def State.pop (s : State) : Option (Word × State) :=
  if h : s.sp.val = 0 then none
  else
    have hlt : s.sp.val - 1 < Config.stackDepth := by have := s.sp.isLt; simp at this; omega
    some (s.stack[s.sp.val - 1]'hlt, s.setSp ⟨s.sp.val - 1, Nat.lt_succ_of_lt hlt⟩)

/-! ## Reports (60_exceptions.md) -/

/-- Where `pc` stands after a report: only `UndefinedOpcode` advances it (R262 to R265, 10_state.md R29). -/
def pcAfterReport (r : Report) (pc : Word) : Word :=
  match r with
  | .undefinedOpcode _ _ => pc + 2
  | .stackUnderflow _ | .stackOverflow _ | .memoryOutOfRange _ _ | .loadOverflow _ _ => pc

/-- The report becomes the result of the tick (or of the Load) and is recorded for the run (40_tick.md R127, R134). -/
def State.record (s : State) (r : Report) : State :=
  (s.setResult (.report r)).setReports (s.reports ++ [r])

/-- `raise`: report entry. The instruction has no effect but the pc's advance of `UndefinedOpcode`; "No state is saved
anywhere, no mode changes, no mask changes" (R271), so nothing else is written. -/
def State.raise (s : State) (r : Report) : State := (s.setPc (pcAfterReport r s.pc)).record r

/-- The cause codes of R267. -/
def reportCode : Report → Nat
  | .undefinedOpcode _ _ => 1
  | .stackUnderflow _ => 2
  | .stackOverflow _ => 3
  | .memoryOutOfRange _ _ => 4
  | .loadOverflow _ _ => 5

/-! ## The phases of a tick around the execute phase (40_tick.md) -/

/-- The big-endian word at `pc`, even or odd: `MEM[pc] ++ MEM[pc+1]` (20_memory.md R63, R64). -/
def State.fetchedWord (s : State) : Word := s.mem.read s.pc.toNat ++ s.mem.read (s.pc.toNat + 1)

/-- Fetch: that word, or `none` when `pc + 2 > MEM_SIZE`; it changes no state (R121, R122, 20_memory.md R66). -/
def State.fetch (s : State) : Option Word := if inRange s.pc.toNat 2 then some s.fetchedWord else none

/-- A timer's countdown by one, never below 0 (R128). -/
def countDown (t : Byte) : Byte := if t = 0 then 0 else t - 1

/-- The timer pass: both timers count down unless `PAUSED` (R128, R129). -/
def State.timerPass (s : State) : State :=
  if s.paused then s else (s.setDt (countDown s.dt)).setSt (countDown s.st)

/-- A tick starts with no report raised and no draw requested: its result is `ok` unless the tick reports (R127, R132),
and `DRAW_REQ` is 0 unless it executes CLS or DRW (45_display.md R238). -/
def State.beginTick (s : State) : State := (s.setResult .ok).setDrawReq false

/-- A tick ends with the timer pass, and the random byte presented to it is gone: it is an input of this one tick
(10_state.md R40, 40_tick.md R131). -/
def State.endTick (s : State) : State := s.timerPass.setRandIn none

/-- Applies a function to a next state and leaves the other outcomes. -/
def mapNext (f : State → State) : Out → Out
  | .next s => .next (f s)
  | .fault r => .fault r
  | .refused r => .refused r

/-! ## Placing a word to be fetched next -/

/-- Where a word is placed so that the next tick fetches it: at `pc`, or at `PROG_BASE` when no fetch at `pc` is in
range (20_memory.md R66; log entry 4). -/
def State.fetchPlace (s : State) : Word := if inRange s.pc.toNat 2 then s.pc else Config.progBase

/-- The two bytes `hi`, `lo` stored where the next tick fetches. -/
def State.placeBytes (s : State) (bytes : List Byte) : State :=
  (s.setMem (s.mem.writeBytes s.fetchPlace.toNat bytes)).setPc s.fetchPlace

end Sys2Proof.Machine
end

