-- ==== Sys2Proof/Machine/Operands.lean ====
section
/-! DEFINITION. The operand forms: register pairs, the immediate forms, the shifted register, register-indirect memory
through `I`, the key comparison, the glyph address, the decimal digits and the random byte. -/

namespace Sys2Proof.Machine

/-- NNN zero-extended to 16 bits (30_encoding.md R94). -/
def addrOf (nnn : Addr12) : Word := nnn.setWidth 16

/-- A register's 8 bits zero-extended to 16 (41_control_transfer.md R149, 43_index_memory.md R191). -/
def zext16 (v : Byte) : Word := v.setWidth 16

/-- The register that SHR and SHL shift: `x[X]`, Y ignored (`SHIFT_SOURCE`, 00_scope.md R8, 42_alu.md R169, R171). -/
def State.shiftSource (s : State) (x _y : RegIdx) : Byte := s.reg x

/-- `EA_k = I + k` on integers without truncation (43_index_memory.md R196). -/
def State.dataAddr (s : State) (k : Nat) : Nat := s.I.toNat + k

/-- Whether the whole range of `n` bytes from `I` is inside memory (20_memory.md R67). -/
def State.dataInRange (s : State) (n : Nat) : Bool := inRange s.I.toNat n

/-- How many registers `x[0]` to `x[X]` are (43_index_memory.md R194, R195). -/
def rangeCount (x : RegIdx) : Nat := x.toNat + 1

/-- The values of `x[0]` to `x[X]` in that order. -/
def State.regRange (s : State) (x : RegIdx) : List Byte :=
  (List.range (rangeCount x)).map fun k => s.reg (BitVec.ofNat 4 k)

/-- `for k = 0 ..: x[k0 + k] <- bytes[k]` (43_index_memory.md R195). -/
def State.setRegsFrom : State → Nat → List Byte → State
  | s, _, [] => s
  | s, k, b :: bs => State.setRegsFrom (s.setReg (BitVec.ofNat 4 k) b) (k + 1) bs

/-- The three decimal digits, most significant first (43_index_memory.md R193). -/
def bcdDigits (v : Byte) : List Byte :=
  [BitVec.ofNat 8 (v.toNat / 100), BitVec.ofNat 8 (v.toNat / 10 % 10), BitVec.ofNat 8 (v.toNat % 10)]

/-- The address of the glyph of a register's low nibble (43_index_memory.md R192, 20_memory.md R69). -/
def glyphAddr (v : Byte) : Word := BitVec.ofNat 16 (5 * (v.extractLsb' 0 4).toNat)

/-- `pressed(v)`: a key is held and it is `v[3:0]` (44_timer_key.md R216). -/
def State.pressed (s : State) (v : Byte) : Bool := decide (s.key = some (v.extractLsb' 0 4))

/-- The clamped row count of DRW (20_memory.md R68). -/
def State.spriteCount (s : State) (n : Nibble) : Nat :=
  if s.I.toNat < Config.memSize then min n.toNat (Config.memSize - s.I.toNat) else 0

/-- The sprite rows of DRW, `MEM[I]` first (45_display.md R235). -/
def State.spriteRows (s : State) (n : Nibble) : List Byte := s.mem.readBytes s.I.toNat (s.spriteCount n)

/-- `rand8()`: the byte the host presented to this tick, else a FREE VALUE (10_state.md R40, log entry 2). -/
def State.rand8 (s : State) : Byte :=
  match s.randIn with
  | some b => b
  | none => Config.randByte s.randCount

end Sys2Proof.Machine
end

