-- ==== Sys2Proof/Machine/Flags.lean ====
section
/-! DEFINITION. The flag computations (spec/10_state.md R42, 42_alu.md R160, R166 to R173) and the order of the result
and the flag. -/

namespace Sys2Proof.Machine

/-- Carry of ADD Vx,Vy: the exact sum exceeds 255 (42_alu.md R167, R173). -/
def carryFlag (a b : Byte) : Bool := decide (a.toNat + b.toNat > 255)

/-- Not-borrow of `minuend - subtrahend`: minuend ≥ subtrahend (R168, R170, R173). -/
def notBorrowFlag (minuend subtrahend : Byte) : Bool := decide (minuend.toNat ≥ subtrahend.toNat)

/-- XOR's flag: the result differs from the bitwise OR of the operands (R166). -/
def xorFlag (a b : Byte) : Bool := decide (a ^^^ b ≠ a ||| b)

/-- SHR's flag: bit 0 of the value before the shift (R169). -/
def shrFlag (a : Byte) : Bool := a.getLsbD 0

/-- SHL's flag: bit 7 of the value before the shift (R171). -/
def shlFlag (a : Byte) : Bool := a.getLsbD 7

/-- The exact sum narrowed to 8 bits (R167, R173). -/
def sum8 (a b : Byte) : Byte := BitVec.ofNat 8 (a.toNat + b.toNat)

/-- The exact difference narrowed to 8 bits, modulo 256 (R168, R170, R173). -/
def diff8 (a b : Byte) : Byte := BitVec.ofInt 8 (a.toNat - b.toNat)

/-- The result goes to `x[X]`, then the flag to VF, last: with X = 0xF the flag survives (R160). -/
def State.writeResultFlag (s : State) (x : RegIdx) (v : Byte) (f : Bool) : State := (s.setReg x v).setFlag f

end Sys2Proof.Machine
end

