-- ==== Sys2Proof/Machine/Alu.lean ====
section
/-! DEFINITION. The register and arithmetic instructions (spec/42_alu.md): operands are read first, the result is
written, the flag last (R160), then pc advances. -/

namespace Sys2Proof.Machine

/-- LD Vx, kk (R161). -/
def execLdImm (x : RegIdx) (kk : Byte) (s : State) : Out := .next (s.setReg x kk).advance

/-- ADD Vx, kk (R162): modulo 256, VF not written. -/
def execAddImm (x : RegIdx) (kk : Byte) (s : State) : Out := .next (s.setReg x (sum8 (s.reg x) kk)).advance

/-- LD Vx, Vy (R163). -/
def execLdReg (x y : RegIdx) (s : State) : Out := .next (s.setReg x (s.reg y)).advance

/-- OR Vx, Vy (R164): VF not written. -/
def execOrReg (x y : RegIdx) (s : State) : Out := .next (s.setReg x (s.reg x ||| s.reg y)).advance

/-- AND Vx, Vy (R165): VF not written. -/
def execAndReg (x y : RegIdx) (s : State) : Out := .next (s.setReg x (s.reg x &&& s.reg y)).advance

/-- XOR Vx, Vy (R166). -/
def execXorReg (x y : RegIdx) (s : State) : Out :=
  .next (s.writeResultFlag x (s.reg x ^^^ s.reg y) (xorFlag (s.reg x) (s.reg y))).advance

/-- ADD Vx, Vy (R167). -/
def execAddReg (x y : RegIdx) (s : State) : Out :=
  .next (s.writeResultFlag x (sum8 (s.reg x) (s.reg y)) (carryFlag (s.reg x) (s.reg y))).advance

/-- SUB Vx, Vy (R168): minuend `x[X]`. -/
def execSubReg (x y : RegIdx) (s : State) : Out :=
  .next (s.writeResultFlag x (diff8 (s.reg x) (s.reg y)) (notBorrowFlag (s.reg x) (s.reg y))).advance

/-- SHR Vx (R169). -/
def execShr (x y : RegIdx) (s : State) : Out :=
  .next (s.writeResultFlag x (s.shiftSource x y >>> 1) (shrFlag (s.shiftSource x y))).advance

/-- SUBN Vx, Vy (R170): minuend `x[Y]`, the result still in `x[X]`. -/
def execSubnReg (x y : RegIdx) (s : State) : Out :=
  .next (s.writeResultFlag x (diff8 (s.reg y) (s.reg x)) (notBorrowFlag (s.reg y) (s.reg x))).advance

/-- SHL Vx (R171). -/
def execShl (x y : RegIdx) (s : State) : Out :=
  .next (s.writeResultFlag x (s.shiftSource x y <<< 1) (shlFlag (s.shiftSource x y))).advance

/-- RND Vx, kk (R172): one random byte is consumed. -/
def execRnd (x : RegIdx) (kk : Byte) (s : State) : Out :=
  .next ((s.setReg x (s.rand8 &&& kk)).setRandCount (s.randCount + 1)).advance

end Sys2Proof.Machine
end

