-- ==== Sys2Proof/Machine/Control.lean ====
section
/-! DEFINITION. The control transfer instructions (spec/41_control_transfer.md). `pc` on the right is the
instruction's own address (10_state.md R28). -/

namespace Sys2Proof.Machine

/-- SYS nnn (R141): `raise UndefinedOpcode(w, pc)`, the word being class 0x0 with NNN. -/
def execSys (nnn : Addr12) (s : State) : Out := .next (s.raise (.undefinedOpcode (0x0#4 ++ nnn) s.pc))

/-- RET (R142): the popped value + 2, or `StackUnderflow`. -/
def execRet (s : State) : Out :=
  match s.pop with
  | none => .next (s.raise (.stackUnderflow s.pc))
  | some (v, t) => .next (t.setPc (v + 2))

/-- JP nnn (R143). -/
def execJp (nnn : Addr12) (s : State) : Out := .next (s.setPc (addrOf nnn))

/-- CALL nnn (R144): the address of the CALL itself is pushed, or `StackOverflow`. -/
def execCall (nnn : Addr12) (s : State) : Out :=
  match s.push s.pc with
  | none => .next (s.raise (.stackOverflow s.pc))
  | some t => .next (t.setPc (addrOf nnn))

/-- SE Vx, kk (R145). -/
def execSeImm (x : RegIdx) (kk : Byte) (s : State) : Out := .next (s.skipIf (decide (s.reg x = kk)))

/-- SNE Vx, kk (R146). -/
def execSneImm (x : RegIdx) (kk : Byte) (s : State) : Out := .next (s.skipIf (decide (s.reg x ≠ kk)))

/-- SE Vx, Vy (R147). -/
def execSeReg (x y : RegIdx) (s : State) : Out := .next (s.skipIf (decide (s.reg x = s.reg y)))

/-- SNE Vx, Vy (R148). -/
def execSneReg (x y : RegIdx) (s : State) : Out := .next (s.skipIf (decide (s.reg x ≠ s.reg y)))

/-- JP V0, nnn (R149): always `x[0]`, the sum not reduced modulo 4096. -/
def execJpV0 (nnn : Addr12) (s : State) : Out := .next (s.setPc (addrOf nnn + zext16 (s.reg 0x0)))

end Sys2Proof.Machine
end

