-- ==== Sys2Proof/Machine/Display.lean ====
section
/-! DEFINITION. The framebuffer compositor and the display instructions (spec/45_display.md). -/

namespace Sys2Proof.Machine

/-- Row `n mod 32` (R231). -/
def gridRow (n : Nat) : Fin Config.gridH := ⟨n % 32, Nat.mod_lt n (by decide)⟩

/-- Column `n mod 64` (R231). -/
def gridCol (n : Nat) : Fin Config.gridW := ⟨n % 64, Nat.mod_lt n (by decide)⟩

/-- `GRID[r][c]`; also the host's read-only view (R237). -/
def Grid.cell (g : Grid) (r : Fin Config.gridH) (c : Fin Config.gridW) : Bool := g[r][c]

/-- `GRID[r][c] <- p`. -/
def Grid.setCell (g : Grid) (r : Fin Config.gridH) (c : Fin Config.gridW) (p : Bool) : Grid :=
  g.set r (g[r].set c p)

/-- Clear (R230): every cell off. -/
def clearGrid : Grid := Vector.replicate Config.gridH (Vector.replicate Config.gridW false)

/-- One pixel of Composite: the cell is XORed with `p`, and a cell turned off is a collision (R231). -/
def compositePixel (r : Fin Config.gridH) (c : Fin Config.gridW) (p : Bool) (acc : Grid × Bool) : Grid × Bool :=
  (acc.1.setCell r c (acc.1.cell r c ^^ p), acc.2 || (acc.1.cell r c && !(acc.1.cell r c ^^ p)))

/-- One row of Composite: `for j = 0 to 7`, bit 7 of the byte leftmost (R231). -/
def compositeRow (x y : Nat) (row : Byte) (acc : Grid × Bool) : Grid × Bool :=
  (List.range 8).foldl (fun a j => compositePixel (gridRow y) (gridCol (x + j)) (row.getLsbD (7 - j)) a) acc

/-- The rows of Composite from row `y` on: `for i = 0 to m - 1` (R231). -/
def compositeRows : Nat → Nat → List Byte → Grid × Bool → Grid × Bool
  | _, _, [], acc => acc
  | x, y, row :: rows, acc => compositeRows x (y + 1) rows (compositeRow x y row acc)

/-- Composite-sprite (R231): the grid after it and its collision result. -/
def composite (x y : Nat) (rows : List Byte) (g : Grid) : Grid × Bool := compositeRows x y rows (g, false)

/-- CLS (R234), which requests a draw (R238). -/
def execCls (s : State) : Out := .next ((s.setGrid clearGrid).setDrawReq true).advance

/-- DRW Vx, Vy, n (R235): the coordinates are read before VF is written, and a draw is requested (R238). -/
def execDrw (x y : RegIdx) (n : Nibble) (s : State) : Out :=
  let drawn := composite (s.reg x).toNat (s.reg y).toNat (s.spriteRows n) s.grid
  .next (((s.setGrid drawn.1).setFlag drawn.2).setDrawReq true).advance

end Sys2Proof.Machine
end

