-- ==== Sys2Proof/Machine/IndexMemory.lean ====
section
/-! DEFINITION. The address-register and memory instructions (spec/43_index_memory.md). `I` is never changed by a
memory instruction (R196); the range check is made on the whole range before any write (20_memory.md R67). -/

namespace Sys2Proof.Machine

/-- LD I, nnn (R190). -/
def execLdI (nnn : Addr12) (s : State) : Out := .next (s.setI (addrOf nnn)).advance

/-- ADD I, Vx (R191): modulo 2^16, VF not written. -/
def execAddI (x : RegIdx) (s : State) : Out := .next (s.setI (s.I + zext16 (s.reg x))).advance

/-- LD F, Vx (R192). -/
def execLdF (x : RegIdx) (s : State) : Out := .next (s.setI (glyphAddr (s.reg x))).advance

/-- What LD B and LD [I],Vx share: bytes stored at `I`, `I+1`, ..., or `MemoryOutOfRange(data, I)` (R193, R194). -/
def State.storeAtI (s : State) (bytes : List Byte) : State :=
  if s.dataInRange bytes.length then (s.setMem (s.mem.writeBytes (s.dataAddr 0) bytes)).advance
  else s.raise (.memoryOutOfRange .data s.I)

/-- LD B, Vx (R193). -/
def execLdB (x : RegIdx) (s : State) : Out := .next (s.storeAtI (bcdDigits (s.reg x)))

/-- LD [I], Vx (R194). -/
def execLdMemVx (x : RegIdx) (s : State) : Out := .next (s.storeAtI (s.regRange x))

/-- LD Vx, [I] (R195). -/
def execLdVxMem (x : RegIdx) (s : State) : Out :=
  if s.dataInRange (rangeCount x) then
    .next (s.setRegsFrom 0 (s.mem.readBytes (s.dataAddr 0) (rangeCount x))).advance
  else .next (s.raise (.memoryOutOfRange .data s.I))

end Sys2Proof.Machine
end

