-- ==== Sys2Proof/Machine/KeyTimer.lean ====
section
/-! DEFINITION. The key and timer instructions (spec/44_timer_key.md). -/

namespace Sys2Proof.Machine

/-- SKP Vx (R210). -/
def execSkp (x : RegIdx) (s : State) : Out := .next (s.skipIf (s.pressed (s.reg x)))

/-- SKNP Vx (R211). -/
def execSknp (x : RegIdx) (s : State) : Out := .next (s.skipIf (!s.pressed (s.reg x)))

/-- LD Vx, DT (R212): DT before this tick's timer pass. -/
def execLdVxDt (x : RegIdx) (s : State) : Out := .next (s.setReg x s.dt).advance

/-- LD Vx, K (R213): with no key held nothing changes, so the next tick executes the same instruction again. -/
def execLdVxK (x : RegIdx) (s : State) : Out :=
  match s.key with
  | none => .next s
  | some k => .next (s.setReg x (k.setWidth 8)).advance

/-- LD DT, Vx (R214). -/
def execLdDtVx (x : RegIdx) (s : State) : Out := .next (s.setDt (s.reg x)).advance

/-- LD ST, Vx (R215). -/
def execLdStVx (x : RegIdx) (s : State) : Out := .next (s.setSt (s.reg x)).advance

end Sys2Proof.Machine
end

