-- ==== Sys2Proof/Machine/Tick.lean ====
section
/-! DEFINITION. The tick (spec/40_tick.md R120 to R132): fetch, decode, execute, timer pass. -/

namespace Sys2Proof.Machine

/-- Phases 2 and 3 on what fetch gave (R122 to R124): no word is `MemoryOutOfRange(fetch, pc)`, a word that selects no
operation is `UndefinedOpcode(w, pc)`, and any other word's operation is executed. -/
def runFetched (s : State) : Option Word → Out
  | none => .next (s.raise (.memoryOutOfRange .fetch s.pc))
  | some w =>
    match decodeWord w with
    | none => .next (s.raise (.undefinedOpcode w s.pc))
    | some i => exec i s

/-- One tick (R132). -/
def tick (s : State) : Out := mapNext State.endTick (runFetched s.beginTick s.beginTick.fetch)

end Sys2Proof.Machine
end

