-- ==== Sys2Proof/Machine/Step.lean ====
section
/-! DEFINITION. The step of the machine: one tick (spec/40_tick.md R120). -/

namespace Sys2Proof.Machine

/-- One invocation of `tick()`, the random byte being the one presented, else a free value (R120). -/
def step (s : State) : Host.Outcome State Fault Refusal := tick s

/-- The state with the instruction `tableWord nbits w` stored where `step` fetches its next instruction (log entry 4). -/
def State.withFetchWord (s : State) (nbits w : Nat) : State := s.placeBytes (bytesOfWord (tableWord nbits w))

end Sys2Proof.Machine
end

