-- ==== Sys2Proof/Machine/HostPort.lean ====
section
/-! DEFINITION. The operations the core offers the host, each atomic and between ticks (spec/70_reset_and_hazards.md
R306 to R308). A run of the machine is a sequence of them. -/

namespace Sys2Proof.Machine

/-- `initialize()` (R300, R301): every piece of the core's state to its reset value. The record of the run's reports
and the index of the next free random byte go on: they are no state of the core (log entry 6). -/
def State.hostInit (s : State) : State := (State.reset.setReports s.reports).setRandCount s.randCount

/-- `load(bytes, offset)` (20_memory.md R78 to R80): the check precedes the copy, and no other state changes but the
result. -/
def State.hostLoad (s : State) (bytes : List Byte) (offset : Nat) : State :=
  if inRange offset bytes.length then (s.setMem (s.mem.writeBytes offset bytes)).setResult .ok
  else s.record (.loadOverflow offset bytes.length)

/-- `pause()` (10_state.md R37). -/
def State.hostPause (s : State) : State := s.setPaused true

/-- `resume()` (10_state.md R37). -/
def State.hostResume (s : State) : State := s.setPaused false

/-- Key-down with a code already normalized to 0 to 15 (10_state.md R36); another code is refused (R307). -/
def State.hostKeyDown (s : State) (code : Nat) : Out :=
  if code < 16 then .next (s.setKey (some (BitVec.ofNat 4 code))) else .refused (.keyCodeNotNormalized code)

/-- Key-up, whatever key it refers to (10_state.md R36). -/
def State.hostKeyUp (s : State) : State := s.setKey none

/-- `tick()` with the random byte `r` (R306; 40_tick.md R120). -/
def State.hostTick (s : State) (r : Byte) : Out := step (s.setRandIn (some r))

/-- The read-only view of the grid (45_display.md R237). -/
def State.gridView (s : State) (r : Fin Config.gridH) (c : Fin Config.gridW) : Bool := s.grid.cell r c

/-- The host's operations on the core (R306). The grid view changes nothing and is `State.gridView`. -/
inductive HostOp where
  | init
  | load (bytes : List Byte) (offset : Nat)
  | tick (r : Byte)
  | pause
  | resume
  | stop
  | keyDown (code : Nat)
  | keyUp
  deriving DecidableEq, Repr

/-- What each host operation does (R306). `stop()` "simply ceases invoking ticks". -/
def hostStep (op : HostOp) (s : State) : Out :=
  match op with
  | .init => .next s.hostInit
  | .load bytes offset => .next (s.hostLoad bytes offset)
  | .tick r => s.hostTick r
  | .pause => .next s.hostPause
  | .resume => .next s.hostResume
  | .stop => .next s
  | .keyDown code => s.hostKeyDown code
  | .keyUp => .next s.hostKeyUp

/-- A run: host operations and ticks in a total order (R308). -/
def hostRun : List HostOp → State → Out
  | [], s => .next s
  | op :: ops, s =>
    match hostStep op s with
    | .next t => hostRun ops t
    | .fault r => .fault r
    | .refused r => .refused r

end Sys2Proof.Machine
end

