-- ==== Sys2Proof/Safety.lean ====
section
/-! DEFINITION. The terms that claims about the machine use: the parts of the state and "nothing else changes", the
invariant of a tick, runs, and runs without a report. -/

namespace Sys2Proof.Machine

/-- Every piece of State by name, down to the register, the stack entry, the byte and the pixel (spec/10_state.md R20);
the last five are the model's own fields. -/
inductive Part where
  | memByte (a : Nat)
  | reg (r : RegIdx)
  | I
  | pc
  | stackEntry (k : Fin Config.stackDepth)
  | sp
  | dt
  | st
  | key
  | paused
  | pixel (r : Fin Config.gridH) (c : Fin Config.gridW)
  | result
  | drawReq
  | reports
  | randIn
  | randCount
  deriving DecidableEq, Repr

/-- The part reads the same in both states. -/
def Part.same (s t : State) : Part → Prop
  | .memByte a => t.mem.read a = s.mem.read a
  | .reg r => t.reg r = s.reg r
  | .I => t.I = s.I
  | .pc => t.pc = s.pc
  | .stackEntry k => t.stack[k] = s.stack[k]
  | .sp => t.sp = s.sp
  | .dt => t.dt = s.dt
  | .st => t.st = s.st
  | .key => t.key = s.key
  | .paused => t.paused = s.paused
  | .pixel r c => t.grid.cell r c = s.grid.cell r c
  | .result => t.result = s.result
  | .drawReq => t.drawReq = s.drawReq
  | .reports => t.reports = s.reports
  | .randIn => t.randIn = s.randIn
  | .randCount => t.randCount = s.randCount

/-- From `s` to `t` nothing changes but the parts `w`: the frame of an instruction. -/
def OnlyChanges (s t : State) (w : Part → Prop) : Prop := ∀ p, ¬ w p → p.same s t

/-- A stack entry as a live entry: its index is below `SP` (10_state.md R31). -/
def State.live (s : State) (k : Fin Config.stackDepth) : Prop := k.val < s.sp.val

/-- What every tick keeps: memory is in its canonical form with no address at or beyond `MEM_SIZE`; `pc` is at most
0x10FE (10_state.md R30); every live stack entry is an address an instruction was fetched from, at most 0xFFE
(41_control_transfer.md R142, R144). -/
structure MachineInv (s : State) : Prop where
  memWf : s.mem.wf
  pcBound : s.pc.toNat ≤ 0x10FE
  liveBound : ∀ k : Fin Config.stackDepth, s.live k → s.stack[k].toNat ≤ 0xFFE

/-- The states of the machine's executions: `initialize, (host-op | tick)*` (70_reset_and_hazards.md R308), each tick
with a byte the host presents or with a free one. -/
inductive Reachable : State → Prop where
  | reset : Reachable State.reset
  | host {s t : State} (op : HostOp) : Reachable s → hostStep op s = .next t → Reachable t
  | tick {s t : State} : Reachable s → step s = .next t → Reachable t

/-- A run without a report, the premise of a claim about a program (40_tick.md R134, 60_exceptions.md R261). -/
def NoReport (s : State) : Prop := s.reports = []

/-- The instruction completes: `exec` answers a next state, which meets `P`. -/
def Completes (i : Instr) (s : State) (P : State → Prop) : Prop := ∃ t, exec i s = .next t ∧ P t

/-- The tick returns: `step` answers a next state, which meets `P`. -/
def Ticks (s : State) (P : State → Prop) : Prop := ∃ t, step s = .next t ∧ P t

/-- The next tick executes `i`: the fetch at `pc` is in range and the word there decodes to it. -/
def DecodesAtPc (s : State) (i : Instr) : Prop :=
  s.pc.toNat + 2 ≤ Config.memSize ∧ decodeWord s.fetchedWord = some i

/-- The written parts of an instruction that writes only the pc. -/
def writesPc (p : Part) : Prop := p = .pc

/-- The written parts of an instruction that writes a register and advances. -/
def writesReg (x : RegIdx) (p : Part) : Prop := p = .reg x ∨ p = .pc

/-- The written parts of an instruction that writes a register and VF and advances. -/
def writesRegFlag (x : RegIdx) (p : Part) : Prop := p = .reg x ∨ p = .reg Config.flagReg ∨ p = .pc

/-- The written parts of an instruction whose only effect is a report. -/
def writesReport (p : Part) : Prop := p = .pc ∨ p = .result ∨ p = .reports

/-- The parts a tick may write beside what its instruction writes: the timers, the two outputs and the random byte
presented to it. -/
def writesAroundExec (p : Part) : Prop := p = .dt ∨ p = .st ∨ p = .result ∨ p = .drawReq ∨ p = .randIn

/-- Whether the instruction may write the register: the "w" and "F" entries of the table in 10_state.md R25. -/
def regWrites (i : Instr) (r : RegIdx) : Bool :=
  match i with
  | .ldImm x _ | .addImm x _ | .ldReg x _ | .orReg x _ | .andReg x _ | .rnd x _ | .ldVxDt x | .ldVxK x => r == x
  | .xorReg x _ | .addReg x _ | .subReg x _ | .shr x _ | .subnReg x _ | .shl x _ => r == x || r == Config.flagReg
  | .drw _ _ _ => r == Config.flagReg
  | .ldVxMem x => decide (r ≤ x)
  | .cls | .ret | .sys _ | .jp _ | .call _ | .seImm _ _ | .sneImm _ _ | .seReg _ _ | .sneReg _ _ | .ldI _ | .jpV0 _
  | .skp _ | .sknp _ | .ldDtVx _ | .ldStVx _ | .addI _ | .ldF _ | .ldB _ | .ldMemVx _ => false

/-- Whether the instruction can raise a report (60_exceptions.md R268). -/
def mayReport (i : Instr) : Bool :=
  match i with
  | .sys _ | .ret | .call _ | .ldB _ | .ldMemVx _ | .ldVxMem _ => true
  | .cls | .jp _ | .seImm _ _ | .sneImm _ _ | .seReg _ _ | .ldImm _ _ | .addImm _ _ | .ldReg _ _ | .orReg _ _
  | .andReg _ _ | .xorReg _ _ | .addReg _ _ | .subReg _ _ | .shr _ _ | .subnReg _ _ | .shl _ _ | .sneReg _ _ | .ldI _
  | .jpV0 _ | .rnd _ _ | .drw _ _ _ | .skp _ | .sknp _ | .ldVxDt _ | .ldVxK _ | .ldDtVx _ | .ldStVx _ | .addI _
  | .ldF _ => false

/-- Every state with the memory of `t`, wherever its pc is, fetches `stored` at the `n` addresses from `base` on and what
`s` holds at every other address (20_memory.md R86). -/
def FetchesStored (s t : State) (base n : Nat) (stored : Nat → Byte) : Prop :=
  ∀ u : State, u.mem = t.mem → u.pc.toNat + 2 ≤ Config.memSize →
    u.fetch = some (byteAt u.pc.toNat ++ byteAt (u.pc.toNat + 1))
where
  /-- The byte expected at an address. -/
  byteAt (a : Nat) : Byte := if base ≤ a ∧ a < base + n then stored (a - base) else s.mem.read a

end Sys2Proof.Machine
end

