-- ==== Sys2Proof/Certificates/Slice0/Obligations.lean ====
section
/-! DEFINITION. The statements for the provers. `Completes`, `Ticks`, `OnlyChanges` and the frames are in Safety.lean.
Where a statement rests on a decision the spec marks as its own (92_eei_decisions.md D<n>), its docstring names it. -/

open Sys2Proof Sys2Proof.Machine

/-! ## Reset, invariants and the tick -/

/-- The reset table (10_state.md, section 10). The zero bytes outside the glyph table, PAUSED and the dark grid are the
spec's own decisions D16, D17, D18; the model's own fields are its own choice (log entries 2 and 3) and are not named. -/
def Obligations.ResetHoldsTheSpecifiedValues : Prop :=
  (∀ r, State.reset.reg r = 0x00) ∧ State.reset.I = 0x0000 ∧ State.reset.dt = 0x00 ∧ State.reset.st = 0x00 ∧
  State.reset.pc = 0x0200 ∧ State.reset.sp.val = 0 ∧ (∀ k : Fin 16, State.reset.stack[k] = 0x0000) ∧
  State.reset.key = none ∧ State.reset.paused = false ∧ (∀ r c, State.reset.gridView r c = false) ∧
  Config.glyphBytes.length = 80 ∧ (∀ a (h : a < Config.glyphBytes.length), State.reset.mem.read a = Config.glyphBytes[a]) ∧
  (∀ a, 0x050 ≤ a → a ≤ 0xFFF → State.reset.mem.read a = 0x00)

/-- The invariant holds after reset (with the spec's D16). -/
def Obligations.InvariantHoldsAtReset : Prop := MachineInv State.reset

/-- Every tick from every state that meets the invariant gives a state that meets it: memory stays canonical, pc stays
at most 0x10FE (10_state.md R30), live stack entries stay addresses an instruction was fetched from (41_control_transfer.md
R142). It rests on the spec's D6 and D8 (no wrap of pc, no alignment). -/
def Obligations.EveryTickKeepsTheInvariant : Prop := ∀ s t, MachineInv s → step s = .next t → MachineInv t

/-- Every host operation keeps the invariant too, so every state of an execution `initialize, (host-op | tick)*` meets it. -/
def Obligations.ReachableStatesMeetTheInvariant : Prop := ∀ s, Reachable s → MachineInv s

/-- Every state has a next tick: no state stops the machine with a fault or a refusal (93_implementation_defined.md part 1:
"every state has a next tick"). -/
def Obligations.EveryTickReturnsANextState : Prop := ∀ s, ∃ t, step s = .next t

/-- When the word at pc decodes to `i`, the tick is the execute phase of `i` between the tick's beginning, which clears
its two outputs and nothing else, and its end, which runs the timer pass, takes the presented random byte away, and
changes nothing else (40_tick.md sections 1 and 2). -/
def Obligations.TickExecutesTheDecodedInstruction : Prop :=
  (∀ s i, DecodesAtPc s i → step s = mapNext State.endTick (exec i s.beginTick)) ∧
  (∀ s, s.beginTick.result = .ok ∧ s.beginTick.drawReq = false ∧
    OnlyChanges s s.beginTick fun p => p = .result ∨ p = .drawReq) ∧
  (∀ s, s.endTick.dt = (if s.paused ∨ s.dt = 0 then s.dt else s.dt - 1) ∧
    s.endTick.st = (if s.paused ∨ s.st = 0 then s.st else s.st - 1) ∧ s.endTick.randIn = none ∧
    OnlyChanges s s.endTick fun p => p = .dt ∨ p = .st ∨ p = .randIn)

/-- A word that selects no operation, of class 0x8, 0xE or 0xF, reports `UndefinedOpcode(w, pc)`: pc advances by 2, the
timer pass runs, and nothing else of the core changes (60_exceptions.md R262, 42_alu.md R174, 44_timer_key.md R217,
43_index_memory.md R197). What the model's own record of reports holds is in ReportsArePreciseAndAtMostOne. -/
def Obligations.UndefinedWordsReportAndAdvance : Prop :=
  ∀ s : State, s.pc.toNat + 2 ≤ 4096 →
    ((fieldClass s.fetchedWord = 0x8 ∧
        fieldN s.fetchedWord ∈ ([0x8, 0x9, 0xA, 0xB, 0xC, 0xD, 0xF] : List Nibble)) ∨
      (fieldClass s.fetchedWord = 0xE ∧ fieldKK s.fetchedWord ∉ ([0x9E, 0xA1] : List Byte)) ∨
      (fieldClass s.fetchedWord = 0xF ∧
        fieldKK s.fetchedWord ∉ ([0x07, 0x0A, 0x15, 0x18, 0x1E, 0x29, 0x33, 0x55, 0x65] : List Byte))) →
    decodeWord s.fetchedWord = none ∧
    Ticks s fun t => t.pc = s.pc + 2 ∧ t.result = .report (.undefinedOpcode s.fetchedWord s.pc) ∧
      t.dt = (if s.paused then s.dt else countDown s.dt) ∧ t.st = (if s.paused then s.st else countDown s.st) ∧
      OnlyChanges s t fun p => p = .pc ∨ p = .reports ∨ writesAroundExec p

/-- A fetch that would pass 0xFFF reports `MemoryOutOfRange(fetch, pc)`; pc stays and the timer pass runs
(20_memory.md section 4, 40_tick.md section 1; the spec's decisions D6 and D7). -/
def Obligations.FetchOutOfRangeReportsAndStays : Prop :=
  ∀ s : State, 4096 < s.pc.toNat + 2 →
    Ticks s fun t => t.pc = s.pc ∧ t.result = .report (.memoryOutOfRange .fetch s.pc) ∧
      t.reports = s.reports ++ [.memoryOutOfRange .fetch s.pc] ∧ t.drawReq = false ∧
      t.dt = (if s.paused then s.dt else countDown s.dt) ∧ t.st = (if s.paused then s.st else countDown s.st) ∧
      OnlyChanges s t fun p => p = .reports ∨ writesAroundExec p

/-- "When `PAUSED` is true, phases 1 to 3 run exactly as when it is false" and phase 4 changes nothing (40_tick.md R129),
while the tick with PAUSED false counts both timers down once (R128; on a reporting tick the spec's decision D7, log entry
11): the two ticks differ in PAUSED and in the countdown of both timers alone; LD DT,Vx and LD ST,Vx still write the timers
while paused and LD Vx,DT still reads DT. -/
def Obligations.PauseSuppressesOnlyTheTimerPass : Prop :=
  ∀ s : State, Ticks (s.setPaused true) fun p => Ticks (s.setPaused false) fun u =>
    u.dt = countDown p.dt ∧ u.st = countDown p.st ∧ OnlyChanges p u (fun q => q = .dt ∨ q = .st ∨ q = .paused) ∧
    (∀ i, DecodesAtPc s i → p.dt = (match i with | .ldDtVx x => s.reg x | _ => s.dt) ∧
      p.st = (match i with | .ldStVx x => s.reg x | _ => s.st) ∧
      (∀ x, i = .ldVxDt x → p.reg x = s.dt)) ∧
    ((∀ i, ¬ DecodesAtPc s i) → p.dt = s.dt ∧ p.st = s.st)

/-- Reports are precise: a tick that reports has changed nothing of the core but pc (+2, of `UndefinedOpcode` alone) and
the timers by the timer pass; it adds that one report to the record, and a tick without a report adds none
(60_exceptions.md section 3; the spec's decision D7). -/
def Obligations.ReportsArePreciseAndAtMostOne : Prop :=
  ∀ s, Ticks s fun t =>
    match t.result with
    | .ok => t.reports = s.reports
    | .report r =>
      t.reports = s.reports ++ [r] ∧ t.pc = (if reportCode r = 1 then s.pc + 2 else s.pc) ∧ t.drawReq = false ∧
      t.dt = (if s.paused then s.dt else countDown s.dt) ∧ t.st = (if s.paused then s.st else countDown s.st) ∧
      OnlyChanges s t fun p => p = .pc ∨ p = .reports ∨ writesAroundExec p

/-- Which operation can report what, and exactly when, for every instruction: the words 0x00E0 and 0x00EE are no SYS
(60_exceptions.md section 1, 41_control_transfer.md section 2; D4, D5, D9 of the spec's decisions). -/
def Obligations.ReportsAriseExactlyWhereNamed : Prop :=
  ∀ i s, i.wellFormed = true → s.result = .ok → Completes i s fun t => t.result =
    (match i with
      | .sys nnn => .report (.undefinedOpcode (0x0#4 ++ nnn) s.pc)
      | .ret => if s.sp.val = 0 then .report (.stackUnderflow s.pc) else .ok
      | .call _ => if s.sp.val = 16 then .report (.stackOverflow s.pc) else .ok
      | .ldB _ => if s.I.toNat + 3 ≤ 4096 then .ok else .report (.memoryOutOfRange .data s.I)
      | .ldMemVx x => if s.I.toNat + x.toNat + 1 ≤ 4096 then .ok else .report (.memoryOutOfRange .data s.I)
      | .ldVxMem x => if s.I.toNat + x.toNat + 1 ≤ 4096 then .ok else .report (.memoryOutOfRange .data s.I)
      | _ => .ok)

/-- After a report other than `UndefinedOpcode` the next tick reports the same again (40_tick.md section 4; D7). -/
def Obligations.OtherReportsRepeatEveryTick : Prop :=
  ∀ s r, reportCode r ≠ 1 → Ticks s fun t => t.result = .report r → Ticks t fun u => u.result = .report r

/-! ## Decoding -/

/-- Decoding the word of a well-formed instruction gives it back, with every operand at every value, and so does
decoding its bytes in memory order whatever follows them (30_encoding.md section 5). -/
def Obligations.DecodingAnEncodedInstructionGivesItBack : Prop :=
  ∀ i : Instr, i.wellFormed = true →
    decodeWord (encode i) = some i ∧ ∀ rest, decode (encodeBytes i ++ rest) = .instr i rest

/-- Every word with a meaning is its instruction's encoding, but for w[3:0] of classes 0x5 and 0x9, which takes no part
(30_encoding.md section 3; the spec's decision D21), and what it decodes to is well-formed. That the encoder puts 0 there
is the canonical encoding, general knowledge the spec marks so (G11; log entry 13, PRESUMED). -/
def Obligations.DecodedWordsAreEncodings : Prop :=
  ∀ w i, decodeWord w = some i →
    i.wellFormed = true ∧
    encode i = (if fieldClass w = 0x5 ∨ fieldClass w = 0x9 then w &&& 0xFFF0 else w)

/-- The decode procedure and the opcode map agree: a word decodes to the operation of the first row it matches, and to
none where it matches none (30_encoding.md section 3; the spec's decision D20). -/
def Obligations.DecoderSelectsTheFirstMatchingRow : Prop :=
  ∀ w, (decodeWord w).map Instr.row = firstRow w

/-- The undefined words are exactly those of the list in 30_encoding.md section 4 (the spec's decision D20). -/
def Obligations.UndefinedWordsAreExactlyThoseListed : Prop :=
  ∀ w, decodeWord w = none ↔
    (fieldClass w = 0x8 ∧ fieldN w ∈ ([0x8, 0x9, 0xA, 0xB, 0xC, 0xD, 0xF] : List Nibble)) ∨
    (fieldClass w = 0xE ∧ fieldKK w ∉ ([0x9E, 0xA1] : List Byte)) ∨
    (fieldClass w = 0xF ∧ fieldKK w ∉ ([0x07, 0x0A, 0x15, 0x18, 0x1E, 0x29, 0x33, 0x55, 0x65] : List Byte))

/-- Words written out from the spec (30_encoding.md section 5 and the examples of the instruction rules), one of each
family, decode to the instructions they stand for; the bit patterns but for 0x6005, 0xA200 and the two 0xF forms are
general knowledge the spec marks so (G1). -/
def Obligations.WrittenOutWordsDecode : Prop :=
  decodeWord 0x6005 = some (.ldImm 0 0x05) ∧ decodeWord 0xA200 = some (.ldI 0x200) ∧
  decodeWord 0xD125 = some (.drw 1 2 5) ∧ decodeWord 0xFA55 = some (.ldMemVx 0xA) ∧
  decodeWord 0x00E0 = some .cls ∧ decodeWord 0x00EE = some .ret ∧ decodeWord 0x0123 = some (.sys 0x123) ∧
  decodeWord 0x220A = some (.call 0x20A) ∧ decodeWord 0x512F = some (.seReg 1 2) ∧
  decodeWord 0x8306 = some (.shr 3 0) ∧ decodeWord 0xE4A1 = some (.sknp 4) ∧ decodeWord 0xF265 = some (.ldVxMem 2) ∧
  decodeWord 0x8128 = none

/-! ## Control transfer -/

/-- JP and JP V0 (41_control_transfer.md R143, R149): pc becomes NNN, or NNN + x[0] reduced neither modulo 4096 nor, being
at most 0x10FE, at 16 bits; nothing else changes, and a target beyond 0xFFE is not fetched from. -/
def Obligations.JumpsSetOnlyThePc : Prop :=
  ∀ (s : State) (nnn : Addr12),
    Completes (.jp nnn) s (fun t => t.pc.toNat = nnn.toNat ∧ (0xFFE < t.pc.toNat → t.fetch = none) ∧
      OnlyChanges s t writesPc) ∧
    Completes (.jpV0 nnn) s (fun t => t.pc.toNat = nnn.toNat + (s.reg 0x0).toNat ∧ t.pc.toNat ≤ 0x10FE ∧
      (0xFFE < t.pc.toNat → t.fetch = none) ∧ OnlyChanges s t writesPc) ∧
    decodeWord (0x1#4 ++ nnn) = some (.jp nnn) ∧ decodeWord (0xB#4 ++ nnn) = some (.jpV0 nnn)

/-- SE Vx,kk and SNE Vx,kk (41_control_transfer.md R145, R146). -/
def Obligations.SkipsOnAnImmediate : Prop :=
  ∀ (s : State) (x : RegIdx) (kk : Byte),
    Completes (.seImm x kk) s (fun t => t.pc = (if s.reg x = kk then s.pc + 4 else s.pc + 2) ∧ OnlyChanges s t writesPc) ∧
    Completes (.sneImm x kk) s (fun t => t.pc = (if s.reg x ≠ kk then s.pc + 4 else s.pc + 2) ∧ OnlyChanges s t writesPc) ∧
    decodeWord (0x3#4 ++ x ++ kk) = some (.seImm x kk) ∧ decodeWord (0x4#4 ++ x ++ kk) = some (.sneImm x kk)

/-- SE Vx,Vy and SNE Vx,Vy, whatever w[3:0] holds (41_control_transfer.md section 4; the spec's decision D21). -/
def Obligations.SkipsOnTwoRegisters : Prop :=
  ∀ (s : State) (x y : RegIdx) (n : Nibble),
    Completes (.seReg x y) s (fun t => t.pc = (if s.reg x = s.reg y then s.pc + 4 else s.pc + 2) ∧ OnlyChanges s t writesPc) ∧
    Completes (.sneReg x y) s (fun t => t.pc = (if s.reg x ≠ s.reg y then s.pc + 4 else s.pc + 2) ∧
      OnlyChanges s t writesPc) ∧
    decodeWord (0x5#4 ++ x ++ y ++ n) = some (.seReg x y) ∧ decodeWord (0x9#4 ++ x ++ y ++ n) = some (.sneReg x y)

/-- CALL pushes its own address and jumps; at depth 16 it reports `StackOverflow(pc)` and changes nothing else
(41_control_transfer.md section 3; the spec's decisions D4 and D7). -/
def Obligations.CallPushesItsOwnAddress : Prop :=
  ∀ (s : State) (nnn : Addr12),
    (∀ k : Fin 16, s.sp.val = k.val → Completes (.call nnn) s fun t =>
      t.stack[k] = s.pc ∧ t.sp.val = k.val + 1 ∧ t.pc.toNat = nnn.toNat ∧
      OnlyChanges s t fun p => p = .stackEntry k ∨ p = .sp ∨ p = .pc) ∧
    (s.sp.val = 16 → Completes (.call nnn) s fun t =>
      t.pc = s.pc ∧ t.result = .report (.stackOverflow s.pc) ∧ t.reports = s.reports ++ [.stackOverflow s.pc] ∧
      OnlyChanges s t fun p => p = .result ∨ p = .reports)

/-- RET pops the most recent entry and sets pc to it plus 2, the entry keeping its value; a live entry being at most 0xFFE
(`MachineInv`), the new pc is at most 0x1000. With an empty stack it reports `StackUnderflow(pc)` and changes nothing else
(41_control_transfer.md R142). -/
def Obligations.ReturnPopsAndAddsTwo : Prop :=
  ∀ s : State,
    (∀ k : Fin 16, s.sp.val = k.val + 1 → Completes .ret s fun t =>
      t.pc = s.stack[k] + 2 ∧ (MachineInv s → t.pc.toNat ≤ 0x1000) ∧ t.sp.val = k.val ∧
      OnlyChanges s t fun p => p = .sp ∨ p = .pc) ∧
    (s.sp.val = 0 → Completes .ret s fun t =>
      t.pc = s.pc ∧ t.sp = s.sp ∧ t.result = .report (.stackUnderflow s.pc) ∧
      OnlyChanges s t fun p => p = .result ∨ p = .reports) ∧
    decodeWord 0x00EE = some .ret

/-- "Call then Return restores the program counter to (call-site + 2)" (95_test_vectors.md T6), with anything between
them that leaves the stack as the CALL left it. -/
def Obligations.CallThenReturnResumesAfterTheCall : Prop :=
  ∀ (s : State) (nnn : Addr12), s.sp.val < 16 → Completes (.call nnn) s fun t =>
    ∀ u : State, u.sp = t.sp → u.stack = t.stack → Completes .ret u fun v => v.pc = s.pc + 2 ∧ v.sp = s.sp

/-- SYS, every word of class 0x0 but 0x00E0 and 0x00EE, reports `UndefinedOpcode(w, pc)` with its own word, advances by 2
and does nothing else (41_control_transfer.md section 2; the spec's decision D9). -/
def Obligations.SysReportsItsWordAndAdvances : Prop :=
  ∀ (s : State) (nnn : Addr12), (Instr.sys nnn).wellFormed = true → Completes (.sys nnn) s fun t =>
    t.pc = s.pc + 2 ∧ t.result = .report (.undefinedOpcode (encode (.sys nnn)) s.pc) ∧
    t.reports = s.reports ++ [.undefinedOpcode (encode (.sys nnn)) s.pc] ∧ OnlyChanges s t writesReport

/-! ## Registers and arithmetic -/

/-- LD Vx,kk and ADD Vx,kk (42_alu.md R161, R162): the sum is modulo 256 and VF is not written as a flag. -/
def Obligations.LoadAndAddImmediate : Prop :=
  ∀ (s : State) (x : RegIdx) (kk : Byte),
    Completes (.ldImm x kk) s (fun t => t.reg x = kk ∧ t.pc = s.pc + 2 ∧ OnlyChanges s t (writesReg x)) ∧
    Completes (.addImm x kk) s (fun t => (t.reg x).toNat = ((s.reg x).toNat + kk.toNat) % 256 ∧ t.pc = s.pc + 2 ∧
      OnlyChanges s t (writesReg x)) ∧
    decodeWord (0x6#4 ++ x ++ kk) = some (.ldImm x kk) ∧ decodeWord (0x7#4 ++ x ++ kk) = some (.addImm x kk)

/-- LD Vx,Vy, OR and AND: no flag (42_alu.md section 3; the spec's decisions D10 and D13). -/
def Obligations.MoveOrAndWriteNoFlag : Prop :=
  ∀ (s : State) (x y : RegIdx),
    Completes (.ldReg x y) s (fun t => t.reg x = s.reg y ∧ t.pc = s.pc + 2 ∧ OnlyChanges s t (writesReg x)) ∧
    Completes (.orReg x y) s (fun t => t.reg x = s.reg x ||| s.reg y ∧ t.pc = s.pc + 2 ∧ OnlyChanges s t (writesReg x)) ∧
    Completes (.andReg x y) s (fun t => t.reg x = s.reg x &&& s.reg y ∧ t.pc = s.pc + 2 ∧ OnlyChanges s t (writesReg x))

/-- XOR: VF is 1 iff the operands share a set bit, written last (42_alu.md section 3; the spec's decisions D2 and D13). -/
def Obligations.XorFlagsCommonBits : Prop :=
  ∀ (s : State) (x y : RegIdx), Completes (.xorReg x y) s fun t =>
    t.reg 0xF = (if s.reg x &&& s.reg y ≠ 0 then 1 else 0) ∧ (x ≠ 0xF → t.reg x = s.reg x ^^^ s.reg y) ∧
    t.pc = s.pc + 2 ∧ OnlyChanges s t (writesRegFlag x)

/-- ADD Vx,Vy: the sum modulo 256 and the carry, VF written last (42_alu.md R167). -/
def Obligations.AddSetsCarry : Prop :=
  ∀ (s : State) (x y : RegIdx),
    Completes (.addReg x y) s (fun t =>
      t.reg 0xF = (if (s.reg x).toNat + (s.reg y).toNat > 255 then 1 else 0) ∧
      (x ≠ 0xF → (t.reg x).toNat = ((s.reg x).toNat + (s.reg y).toNat) % 256) ∧
      t.pc = s.pc + 2 ∧ OnlyChanges s t (writesRegFlag x)) ∧
    decodeWord (0x8#4 ++ x ++ y ++ 0x4#4) = some (.addReg x y)

/-- SUB: minuend x[X], the difference modulo 256 and not-borrow, VF written last (42_alu.md R168). -/
def Obligations.SubSetsNotBorrow : Prop :=
  ∀ (s : State) (x y : RegIdx),
    Completes (.subReg x y) s (fun t =>
      t.reg 0xF = (if (s.reg x).toNat ≥ (s.reg y).toNat then 1 else 0) ∧
      (x ≠ 0xF → ((t.reg x).toNat : Int) = ((s.reg x).toNat - (s.reg y).toNat : Int) % 256) ∧
      t.pc = s.pc + 2 ∧ OnlyChanges s t (writesRegFlag x)) ∧
    decodeWord (0x8#4 ++ x ++ y ++ 0x5#4) = some (.subReg x y)

/-- SUBN: minuend x[Y], the result still in x[X] (42_alu.md section 3; the operand order is general knowledge the spec
marks so, G7). -/
def Obligations.SubnSubtractsTheOtherWay : Prop :=
  ∀ (s : State) (x y : RegIdx), Completes (.subnReg x y) s fun t =>
    t.reg 0xF = (if (s.reg y).toNat ≥ (s.reg x).toNat then 1 else 0) ∧
    (x ≠ 0xF → ((t.reg x).toNat : Int) = ((s.reg y).toNat - (s.reg x).toNat : Int) % 256) ∧
    t.pc = s.pc + 2 ∧ OnlyChanges s t (writesRegFlag x)

/-- SHR and SHL shift x[X] by one whatever Y is, and VF is the bit of the old value that leaves the byte, written last
(42_alu.md section 3; the spec's decisions D2 and D12). -/
def Obligations.ShiftsDeliverTheLostBit : Prop :=
  ∀ (s : State) (x y : RegIdx),
    Completes (.shr x y) s (fun t =>
      (t.reg 0xF).toNat = (s.reg x).toNat % 2 ∧ (x ≠ 0xF → (t.reg x).toNat = (s.reg x).toNat / 2) ∧
      t.pc = s.pc + 2 ∧ OnlyChanges s t (writesRegFlag x)) ∧
    Completes (.shl x y) s (fun t =>
      (t.reg 0xF).toNat = (s.reg x).toNat / 128 ∧ (x ≠ 0xF → (t.reg x).toNat = 2 * (s.reg x).toNat % 256) ∧
      t.pc = s.pc + 2 ∧ OnlyChanges s t (writesRegFlag x))

/-- RND: the random byte ANDed with kk, for whatever byte the host presents and, where it presents none, for the free
value at whatever count (42_alu.md section 4; the spec's decision D25; the form of the free value is log entry 2). -/
def Obligations.RandomIsMaskedByTheImmediate : Prop :=
  ∀ (s : State) (x : RegIdx) (kk : Byte), Completes (.rnd x kk) s fun t =>
    t.reg x &&& ~~~kk = 0 ∧ (∀ b, s.randIn = some b → t.reg x = b &&& kk) ∧
    (s.randIn = none → t.reg x = Config.randByte s.randCount &&& kk) ∧ t.pc = s.pc + 2 ∧
    OnlyChanges s t fun p => writesReg x p ∨ p = .randCount

/-! ## The address register and memory -/

/-- LD I,nnn (43_index_memory.md R190). -/
def Obligations.LoadAddressRegister : Prop :=
  ∀ (s : State) (nnn : Addr12),
    Completes (.ldI nnn) s (fun t => t.I.toNat = nnn.toNat ∧ t.I.toNat ≤ 0xFFF ∧ t.pc = s.pc + 2 ∧
      OnlyChanges s t fun p => p = .I ∨ p = .pc) ∧
    decodeWord (0xA#4 ++ nnn) = some (.ldI nnn)

/-- ADD I,Vx wraps at 2^16 alone and writes no flag (43_index_memory.md section 2; the spec's decision D30). -/
def Obligations.AddToAddressRegisterWritesNoFlag : Prop :=
  ∀ (s : State) (x : RegIdx), Completes (.addI x) s fun t =>
    t.I.toNat = (s.I.toNat + (s.reg x).toNat) % 65536 ∧ t.pc = s.pc + 2 ∧ OnlyChanges s t fun p => p = .I ∨ p = .pc

/-- LD F,Vx points I at the glyph of the low nibble: the five bytes there after reset are that glyph's
(43_index_memory.md section 2, 20_memory.md section 5; the spec's decisions D14 and D15). -/
def Obligations.LoadGlyphAddressPointsAtTheGlyph : Prop :=
  ∀ (s : State) (x : RegIdx), Completes (.ldF x) s fun t =>
    t.I.toNat = 5 * ((s.reg x).toNat % 16) ∧ t.pc = s.pc + 2 ∧ (OnlyChanges s t fun p => p = .I ∨ p = .pc) ∧
    ∀ k, k < 5 → Config.glyphBytes[t.I.toNat + k]? = some (State.reset.mem.read (t.I.toNat + k))

/-- LD B,Vx in range: hundreds, tens, ones at I, I+1, I+2, every other byte unchanged (43_index_memory.md section 3; the
spec's decision D5). -/
def Obligations.StoreBcdStoresTheThreeDigits : Prop :=
  ∀ (s : State) (x : RegIdx), s.mem.wf → s.I.toNat + 3 ≤ 4096 → Completes (.ldB x) s fun t =>
    (∀ k, s.dataAddr k = s.I.toNat + k) ∧ (t.mem.read (s.dataAddr 0)).toNat = (s.reg x).toNat / 100 ∧
    (t.mem.read (s.dataAddr 1)).toNat = (s.reg x).toNat / 10 % 10 ∧
    (t.mem.read (s.dataAddr 2)).toNat = (s.reg x).toNat % 10 ∧ t.pc = s.pc + 2 ∧ t.mem.wf ∧
    OnlyChanges s t fun p => p = .pc ∨ ∃ k, k < 3 ∧ p = .memByte (s.dataAddr k)

/-- LD [I],Vx in range: x[k] at I + k for k from 0 to X, every other byte and I unchanged (43_index_memory.md section 3;
the spec's decision D5). -/
def Obligations.StoreRangeStoresTheRegisters : Prop :=
  ∀ (s : State) (x : RegIdx), s.mem.wf → s.I.toNat + x.toNat + 1 ≤ 4096 → Completes (.ldMemVx x) s fun t =>
    (∀ k, s.dataAddr k = s.I.toNat + k) ∧ (∀ k : RegIdx, k ≤ x → t.mem.read (s.dataAddr k.toNat) = s.reg k) ∧
    t.pc = s.pc + 2 ∧ t.mem.wf ∧
    OnlyChanges s t fun p => p = .pc ∨ ∃ k : RegIdx, k ≤ x ∧ p = .memByte (s.dataAddr k.toNat)

/-- LD Vx,[I] in range: x[k] from I + k for k from 0 to X, memory, I and the registers above X unchanged
(43_index_memory.md section 3; the spec's decision D5). -/
def Obligations.LoadRangeLoadsTheRegisters : Prop :=
  ∀ (s : State) (x : RegIdx), s.I.toNat + x.toNat + 1 ≤ 4096 → Completes (.ldVxMem x) s fun t =>
    (∀ k : RegIdx, k ≤ x → t.reg k = s.mem.read (s.I.toNat + k.toNat)) ∧ t.pc = s.pc + 2 ∧
    OnlyChanges s t fun p => p = .pc ∨ ∃ k : RegIdx, k ≤ x ∧ p = .reg k

/-- Out of range the three report `MemoryOutOfRange(data, I)` and store or load nothing, not even the part that is in
range (20_memory.md section 4; the spec's decisions D5 and D7). -/
def Obligations.DataOutOfRangeReportsAndTransfersNothing : Prop :=
  ∀ (s : State) (x : RegIdx) (i : Instr),
    (i = .ldB x ∧ 4096 < s.I.toNat + 3) ∨ ((i = .ldMemVx x ∨ i = .ldVxMem x) ∧ 4096 < s.I.toNat + x.toNat + 1) →
    Completes i s fun t => t.pc = s.pc ∧ t.result = .report (.memoryOutOfRange .data s.I) ∧
      t.reports = s.reports ++ [.memoryOutOfRange .data s.I] ∧ OnlyChanges s t fun p => p = .result ∨ p = .reports

/-- Self-modifying code: after a store by LD B or LD [I],Vx, or a Load, in range, a fetch at any pc, even or odd, reads the
stored bytes where it meets them and the old ones elsewhere; the next tick's fetch is one of these (20_memory.md section 9;
the spec's decision D32). -/
def Obligations.StoredBytesAreFetchedAtOnce : Prop :=
  ∀ s : State, s.mem.wf →
    (∀ x : RegIdx, s.I.toNat + 3 ≤ 4096 → Completes (.ldB x) s fun t =>
      FetchesStored s t (s.dataAddr 0) 3 fun k => BitVec.ofNat 8
        (if k = 0 then (s.reg x).toNat / 100 else if k = 1 then (s.reg x).toNat / 10 % 10 else (s.reg x).toNat % 10)) ∧
    (∀ x : RegIdx, s.I.toNat + x.toNat + 1 ≤ 4096 → Completes (.ldMemVx x) s fun t =>
      FetchesStored s t (s.dataAddr 0) (x.toNat + 1) fun k => s.reg (BitVec.ofNat 4 k)) ∧
    (∀ (bytes : List Byte) (offset : Nat), offset + bytes.length ≤ 4096 →
      ∃ t, hostStep (.load bytes offset) s = .next t ∧
        FetchesStored s t offset bytes.length fun k => bytes.getD k 0)

/-! ## Keys and timers -/

/-- SKP and SKNP compare the low nibble with the key latch; with no key held SKP never skips and SKNP always does
(44_timer_key.md R210, R211, R216). -/
def Obligations.KeySkipsCompareTheLowNibble : Prop :=
  ∀ (s : State) (x : RegIdx),
    Completes (.skp x) s (fun t =>
      t.pc = (if s.key.map BitVec.toNat = some ((s.reg x).toNat % 16) then s.pc + 4 else s.pc + 2) ∧
      OnlyChanges s t writesPc) ∧
    Completes (.sknp x) s (fun t =>
      t.pc = (if s.key.map BitVec.toNat = some ((s.reg x).toNat % 16) then s.pc + 2 else s.pc + 4) ∧
      OnlyChanges s t writesPc) ∧
    decodeWord (0xE#4 ++ x ++ 0x9E#8) = some (.skp x) ∧ decodeWord (0xE#4 ++ x ++ 0xA1#8) = some (.sknp x)

/-- LD Vx,K: with no key held it changes nothing at all, so that the next tick executes it again; with a key held it
completes at once (44_timer_key.md section 1; the spec's decision D11). -/
def Obligations.WaitForKeyHoldsThePc : Prop :=
  ∀ (s : State) (x : RegIdx),
    (s.key = none → Completes (.ldVxK x) s fun t => OnlyChanges s t fun _ => False) ∧
    (∀ k, s.key = some k → Completes (.ldVxK x) s fun t =>
      (t.reg x).toNat = k.toNat ∧ t.pc = s.pc + 2 ∧ OnlyChanges s t (writesReg x)) ∧
    (s.key = none → DecodesAtPc s (.ldVxK x) → Ticks s fun t => DecodesAtPc t (.ldVxK x))

/-- LD Vx,DT, LD DT,Vx and LD ST,Vx, each also through its tick: the read comes before, the write before, that tick's
timer pass (44_timer_key.md R212, R214, and for ST its section 2). -/
def Obligations.TimerMovesAndTheSameTicksCountdown : Prop :=
  ∀ (s : State) (x : RegIdx),
    Completes (.ldVxDt x) s (fun t => t.reg x = s.dt ∧ t.pc = s.pc + 2 ∧ OnlyChanges s t (writesReg x)) ∧
    Completes (.ldDtVx x) s (fun t => t.dt = s.reg x ∧ t.pc = s.pc + 2 ∧ OnlyChanges s t fun p => p = .dt ∨ p = .pc) ∧
    Completes (.ldStVx x) s (fun t => t.st = s.reg x ∧ t.pc = s.pc + 2 ∧ OnlyChanges s t fun p => p = .st ∨ p = .pc) ∧
    (DecodesAtPc s (.ldVxDt x) → Ticks s fun t => t.reg x = s.dt ∧
      t.dt.toNat = if s.paused then s.dt.toNat else s.dt.toNat - 1) ∧
    (DecodesAtPc s (.ldDtVx x) → Ticks s fun t =>
      t.dt.toNat = if s.paused then (s.reg x).toNat else (s.reg x).toNat - 1) ∧
    (DecodesAtPc s (.ldStVx x) → Ticks s fun t =>
      t.st.toNat = if s.paused then (s.reg x).toNat else (s.reg x).toNat - 1) ∧
    decodeWord (0xF#4 ++ x ++ 0x07#8) = some (.ldVxDt x) ∧ decodeWord (0xF#4 ++ x ++ 0x15#8) = some (.ldDtVx x) ∧
    decodeWord (0xF#4 ++ x ++ 0x18#8) = some (.ldStVx x)

/-- Nothing but LD ST,Vx and the timer pass has to do with ST: two states that differ in ST alone tick to states that
differ in ST alone (10_state.md sections 6 and 10). -/
def Obligations.SoundTimerInfluencesNothing : Prop :=
  ∀ (s : State) (v : Byte), Ticks s fun t => Ticks (s.setSt v) fun u => OnlyChanges t u fun p => p = .st

/-! ## The display -/

/-- CLS turns every cell off and advances, with `DRAW_REQ`; VF and the rest are unchanged (45_display.md R230, R234). -/
def Obligations.ClearScreenTurnsEveryCellOff : Prop :=
  ∀ s : State,
    Completes .cls s (fun t => (∀ r c, t.gridView r c = false) ∧ t.pc = s.pc + 2 ∧ t.drawReq = true ∧
      OnlyChanges s t fun p => p = .pc ∨ p = .drawReq ∨ ∃ r c, p = .pixel r c) ∧
    decodeWord 0x00E0 = some .cls

/-- Composite-sprite's loop, pixel by pixel: every cell becomes its old value XOR the sprite bit that falls on it, and the
result is 1 iff some sprite bit 1 fell on a cell that was on before the operation; both for up to 15 rows (45_display.md
section 1: the loop of R231, in the closed form that R232 and the derived R233 give it). -/
def Obligations.CompositeXorsTheWrappedSprite : Prop :=
  ∀ (x y : Nat) (rows : List Byte) (g : Grid), rows.length ≤ 15 →
    (∀ (r : Fin 32) (c : Fin 64), (composite x y rows g).1.cell r c =
      (g.cell r c ^^ decide (∃ i : Fin rows.length, ∃ j : Fin 8,
        (y + i.val) % 32 = r.val ∧ (x + j.val) % 64 = c.val ∧ (rows[i]).getLsbD (7 - j.val) = true))) ∧
    ((composite x y rows g).2 = true ↔ ∃ i : Fin rows.length, ∃ j : Fin 8, (rows[i]).getLsbD (7 - j.val) = true ∧
      ∃ (r : Fin 32) (c : Fin 64), r.val = (y + i.val) % 32 ∧ c.val = (x + j.val) % 64 ∧ g.cell r c = true)

/-- Composite is its own inverse, and the second application collides iff the first turned a cell on (45_display.md
section 1, properties (a) and (b)). -/
def Obligations.CompositeTwiceRestoresTheGrid : Prop :=
  ∀ (x y : Nat) (rows : List Byte) (g : Grid), rows.length ≤ 15 →
    let once := (composite x y rows g).1
    (composite x y rows once).1 = g ∧
    ((composite x y rows once).2 = true ↔ ∃ r c, g.cell r c = false ∧ once.cell r c = true)

/-- DRW composites the clamped rows at I with the old x[X], x[Y] as coordinates and writes the collision to VF, with
`DRAW_REQ`; memory, I and the other registers are unchanged and it never reports (45_display.md section 2, 20_memory.md
section 4; the spec's decisions D2, D26, D33). -/
def Obligations.DrawCompositesTheClampedSprite : Prop :=
  ∀ (s : State) (x y : RegIdx) (n : Nibble), Completes (.drw x y n) s fun t =>
    ∃ rows : List Byte, rows.length = min n.toNat (4096 - s.I.toNat) ∧
      (∀ i (h : i < rows.length), rows[i] = s.mem.read (s.I.toNat + i)) ∧
      t.grid = (composite (s.reg x).toNat (s.reg y).toNat rows s.grid).1 ∧
      t.reg 0xF = (if (composite (s.reg x).toNat (s.reg y).toNat rows s.grid).2 then 1 else 0) ∧
      t.pc = s.pc + 2 ∧ t.drawReq = true ∧
      OnlyChanges s t fun p => p = .reg 0xF ∨ p = .pc ∨ p = .drawReq ∨ ∃ r c, p = .pixel r c

/-! ## Rules over all instructions -/

/-- Which instructions may write each piece of state: none writes KEY, PAUSED or the presented random byte; only CLS and
DRW write the grid and `DRAW_REQ`; only CALL and RET write SP, only CALL a stack entry; only LD B and LD [I],Vx a byte of
memory; only LD I, ADD I and LD F write I; only LD DT,Vx DT and only LD ST,Vx ST in the execute phase; a register keeps its
value unless `regWrites` names it (R25); pc goes where R29 says; only an instruction of `mayReport` (R268) changes the result
and the record of reports, and only RND the index of the free random stream (10_state.md sections 1 to 8, 60_exceptions.md
section 1; D1, D2, D4, D5, D7, D9, D11, D13 of the spec's decisions). Result, record and index are the model's own fields
(log entries 2 and 3), and that `sys 0x0E0` and `sys 0x0EE`, which no word decodes to, behave as SYS is log entry 12. -/
def Obligations.EachPartIsWrittenOnlyByItsInstructions : Prop :=
  ∀ i s, Completes i s fun t => t.key = s.key ∧ t.paused = s.paused ∧ t.randIn = s.randIn ∧
    (i ≠ .cls → (∀ x y n, i ≠ .drw x y n) → t.grid = s.grid ∧ t.drawReq = s.drawReq) ∧
    ((∀ nnn, i ≠ .call nnn) → t.stack = s.stack ∧ (i ≠ .ret → t.sp = s.sp)) ∧
    ((∀ x, i ≠ .ldB x) → (∀ x, i ≠ .ldMemVx x) → t.mem = s.mem) ∧
    ((∀ nnn, i ≠ .ldI nnn) → (∀ x, i ≠ .addI x) → (∀ x, i ≠ .ldF x) → t.I = s.I) ∧
    ((∀ x, i ≠ .ldDtVx x) → t.dt = s.dt) ∧ ((∀ x, i ≠ .ldStVx x) → t.st = s.st) ∧
    (∀ r, regWrites i r = false → t.reg r = s.reg r) ∧
    (mayReport i = false → t.result = s.result ∧ t.reports = s.reports) ∧
    ((∀ x kk, i ≠ .rnd x kk) → t.randCount = s.randCount) ∧
    (match i with
      | .jp nnn => t.pc.toNat = nnn.toNat
      | .jpV0 nnn => t.pc.toNat = nnn.toNat + (s.reg 0x0).toNat
      | .call nnn => t.pc.toNat = nnn.toNat ∨ (s.sp.val = 16 ∧ t.pc = s.pc)
      | .ret => (∃ k : Fin 16, s.sp.val = k.val + 1 ∧ t.pc = s.stack[k] + 2) ∨ (s.sp.val = 0 ∧ t.pc = s.pc)
      | .seImm _ _ | .sneImm _ _ | .seReg _ _ | .sneReg _ _ | .skp _ | .sknp _ => t.pc = s.pc + 4 ∨ t.pc = s.pc + 2
      | .ldVxK _ => t.pc = (if s.key = none then s.pc else s.pc + 2)
      | .ldB _ => t.pc = (if s.I.toNat + 3 ≤ 4096 then s.pc + 2 else s.pc)
      | .ldMemVx x | .ldVxMem x => t.pc = (if s.I.toNat + x.toNat + 1 ≤ 4096 then s.pc + 2 else s.pc)
      | _ => t.pc = s.pc + 2)

/-- VF changes only in the seven flag-writing instructions, where it ends 0 or 1 whatever X is, and in an instruction that
names it as an ordinary destination (10_state.md sections 2 and 10; D1, D2, D13 of the spec's decisions; of the terms
`sys 0x0E0` and `sys 0x0EE`, which no word decodes to, it rests on log entry 12). -/
def Obligations.FlagIsWrittenOnlyByFlagWriters : Prop :=
  ∀ i s, Completes i s fun t =>
    match i with
    | .xorReg _ _ | .addReg _ _ | .subReg _ _ | .subnReg _ _ | .shr _ _ | .shl _ _ | .drw _ _ _ =>
      t.reg 0xF = 0 ∨ t.reg 0xF = 1
    | .ldImm x _ | .addImm x _ | .ldReg x _ | .orReg x _ | .andReg x _ | .rnd x _ | .ldVxDt x | .ldVxK x | .ldVxMem x =>
      x ≠ 0xF → t.reg 0xF = s.reg 0xF
    | _ => t.reg 0xF = s.reg 0xF

/-- An entry at or above SP is unobservable: two states that differ in such entries alone tick to states that differ in
entries at or above SP alone (10_state.md section 5; the spec's decision D4). -/
def Obligations.StaleStackEntriesInfluenceNothing : Prop :=
  ∀ (s : State) (v : Vector Word 16), (∀ k : Fin 16, s.live k → v[k] = s.stack[k]) →
    Ticks s fun t => Ticks (s.setStack v) fun u => OnlyChanges t u fun p => ∃ k, p = .stackEntry k ∧ ¬ t.live k

/-- A tick that does not execute RND ignores the random input: whatever byte is presented, it does the same
(40_tick.md section 3; the spec's decision D25). -/
def Obligations.OnlyRandomReadsTheRandomInput : Prop :=
  ∀ (s : State) (b : Option Byte) (n : Nat), (∀ x kk, ¬ DecodesAtPc s (.rnd x kk)) →
    Ticks s fun t => Ticks ((s.setRandIn b).setRandCount n) fun u => OnlyChanges t u (fun p => p = .randCount) ∧
      t.randCount = s.randCount ∧ u.randCount = n

/-! ## The host's operations -/

/-- `load`: every byte at its place and nothing else changed, or, when the sequence would pass the end of memory,
`LoadOverflow(offset, len)` and no byte written (20_memory.md section 8; the spec's decision D23). -/
def Obligations.LoadCopiesAllOrNothing : Prop :=
  ∀ (s : State) (bytes : List Byte) (offset : Nat), s.mem.wf →
    (offset + bytes.length ≤ 4096 → ∃ t, hostStep (.load bytes offset) s = .next t ∧ t.result = .ok ∧
      (∀ k (h : k < bytes.length), t.mem.read (offset + k) = bytes[k]) ∧
      OnlyChanges s t fun p => p = .result ∨ ∃ k, k < bytes.length ∧ p = .memByte (offset + k)) ∧
    (4096 < offset + bytes.length → ∃ t, hostStep (.load bytes offset) s = .next t ∧
      t.result = .report (.loadOverflow offset bytes.length) ∧
      t.reports = s.reports ++ [.loadOverflow offset bytes.length] ∧
      OnlyChanges s t fun p => p = .result ∨ p = .reports)

/-- Program image layout: byte k of the image is at 0x200 + k, and instruction j of a straight-line program is the word of
the two bytes at 0x200 + 2j and 0x200 + 2j + 1, high byte first (20_memory.md R81). -/
def Obligations.LoadedImageIsFetchedHighByteFirst : Prop :=
  (∀ (s : State) (image : List Byte), s.mem.wf → 0x200 + image.length ≤ 4096 →
    ∃ t, hostStep (.load image 0x200) s = .next t ∧
      (∀ k (h : k < image.length), t.mem.read (0x200 + k) = image[k]) ∧
      ∀ j (h : 2 * j + 1 < image.length) (u : State), u.mem = t.mem → u.pc.toNat = 0x200 + 2 * j →
        u.fetch = some (image[2 * j] ++ image[2 * j + 1])) ∧
  (∃ t, hostStep (.load [0x60, 0x05, 0xA2, 0x00] 0x200) State.reset = .next t ∧
    t.fetch = some 0x6005 ∧ (t.setPc 0x202).fetch = some 0xA200)

/-- Key events and pause: key-down replaces, key-up clears whatever the key, `pause()` and `resume()` set and clear the
flag, `stop()` does nothing, nothing else changes, and a code outside 0 to 15 has no meaning (10_state.md section 7,
70_reset_and_hazards.md section 3; the spec's decisions D18 and D24). -/
def Obligations.KeyEventsAndPauseChangeOnlyTheirLatch : Prop :=
  ∀ s : State,
    (∀ k : Nibble, ∃ t, hostStep (.keyDown k.toNat) s = .next t ∧ t.key = some k ∧ OnlyChanges s t fun p => p = .key) ∧
    (∀ code, 16 ≤ code → hostStep (.keyDown code) s = .refused (.keyCodeNotNormalized code)) ∧
    (∃ t, hostStep .keyUp s = .next t ∧ t.key = none ∧ OnlyChanges s t fun p => p = .key) ∧
    (∃ t, hostStep .pause s = .next t ∧ t.paused = true ∧ OnlyChanges s t fun p => p = .paused) ∧
    (∃ t, hostStep .resume s = .next t ∧ t.paused = false ∧ OnlyChanges s t fun p => p = .paused) ∧
    hostStep .stop s = .next s

/-- `initialize()` puts every piece of the core's state to its reset value whatever it was, the loaded program included
(70_reset_and_hazards.md section 1; the spec's decisions D16 to D18 and D35); the record of reports goes on and so does
the free stream of random bytes, which is the model's choice (log entry 6). -/
def Obligations.InitializeIsAFullReset : Prop :=
  ∀ s : State, ∃ t, hostStep .init s = .next t ∧ t.reports = s.reports ∧ t.randCount = s.randCount ∧
    OnlyChanges State.reset t fun p => p = .reports ∨ p = .randCount

/-- The step lemma of the host's side: every host operation, from every state that meets the invariant, gives a state that
meets it; a Load keeps the canonical form (10_state.md sections 4 and 5, 20_memory.md section 8). It rests on the spec's D6
and D8, as EveryTickKeepsTheInvariant does. -/
def Obligations.EveryHostOperationKeepsTheInvariant : Prop :=
  ∀ op s t, MachineInv s → hostStep op s = .next t → MachineInv t
end

