-- ==== Sys2Proof/Laws/Decode.lean ====
section
/-! SUPPORT. The fields of R92 cut from each format of R93. -/

namespace Sys2Proof

variable (c n : Nibble) (x y : RegIdx) (kk : Byte) (nnn : Addr12)

@[simp] theorem fieldClass_formatA : fieldClass (formatA c nnn) = c := by
  ext i hi
  simp only [fieldClass, formatA, BitVec.getElem_extractLsb', BitVec.getLsbD_append]
  interval_cases i <;> simp [BitVec.getLsbD_eq_getElem]

@[simp] theorem fieldNNN_formatA : fieldNNN (formatA c nnn) = nnn := by
  ext i hi
  simp only [fieldNNN, formatA, BitVec.getElem_extractLsb', BitVec.getLsbD_append]
  interval_cases i <;> simp [BitVec.getLsbD_eq_getElem]

@[simp] theorem fieldClass_formatI : fieldClass (formatI c x kk) = c := by
  ext i hi
  simp only [fieldClass, formatI, BitVec.getElem_extractLsb', BitVec.getLsbD_append]
  interval_cases i <;> simp [BitVec.getLsbD_eq_getElem]

@[simp] theorem fieldX_formatI : fieldX (formatI c x kk) = x := by
  ext i hi
  simp only [fieldX, formatI, BitVec.getElem_extractLsb', BitVec.getLsbD_append]
  interval_cases i <;> simp [BitVec.getLsbD_eq_getElem]

@[simp] theorem fieldKK_formatI : fieldKK (formatI c x kk) = kk := by
  ext i hi
  simp only [fieldKK, formatI, BitVec.getElem_extractLsb', BitVec.getLsbD_append]
  interval_cases i <;> simp [BitVec.getLsbD_eq_getElem]

@[simp] theorem fieldClass_formatR : fieldClass (formatR c x y n) = c := by
  ext i hi
  simp only [fieldClass, formatR, BitVec.getElem_extractLsb', BitVec.getLsbD_append]
  interval_cases i <;> simp [BitVec.getLsbD_eq_getElem]

@[simp] theorem fieldX_formatR : fieldX (formatR c x y n) = x := by
  ext i hi
  simp only [fieldX, formatR, BitVec.getElem_extractLsb', BitVec.getLsbD_append]
  interval_cases i <;> simp [BitVec.getLsbD_eq_getElem]

@[simp] theorem fieldY_formatR : fieldY (formatR c x y n) = y := by
  ext i hi
  simp only [fieldY, formatR, BitVec.getElem_extractLsb', BitVec.getLsbD_append]
  interval_cases i <;> simp [BitVec.getLsbD_eq_getElem]

@[simp] theorem fieldN_formatR : fieldN (formatR c x y n) = n := by
  ext i hi
  simp only [fieldN, formatR, BitVec.getElem_extractLsb', BitVec.getLsbD_append]
  interval_cases i <;> simp [BitVec.getLsbD_eq_getElem]

@[simp] theorem fieldClass_formatF : fieldClass (formatF c x kk) = c := fieldClass_formatI c x kk
@[simp] theorem fieldX_formatF : fieldX (formatF c x kk) = x := fieldX_formatI c x kk
@[simp] theorem fieldKK_formatF : fieldKK (formatF c x kk) = kk := fieldKK_formatI c x kk

/-- The bytes of a word put together again are the word. -/
@[simp] theorem wordOfBytes_bytes (w : Word) : wordOfBytes (w.extractLsb' 8 8) (w.extractLsb' 0 8) = w := by
  refine BitVec.eq_of_getLsbD_eq fun i hi => ?_
  simp only [wordOfBytes, BitVec.getLsbD_append, BitVec.getLsbD_extractLsb']
  interval_cases i <;> simp

/-- A word is its class, X, Y and N (R92, format R). -/
theorem formatR_fields (w : Word) : formatR (fieldClass w) (fieldX w) (fieldY w) (fieldN w) = w := by
  refine BitVec.eq_of_getLsbD_eq fun i hi => ?_
  simp only [formatR, fieldClass, fieldX, fieldY, fieldN, BitVec.getLsbD_append, BitVec.getLsbD_extractLsb']
  interval_cases i <;> simp

/-- A word is its class, X and KK (R92, formats I and F). -/
theorem formatI_fields (w : Word) : formatI (fieldClass w) (fieldX w) (fieldKK w) = w := by
  refine BitVec.eq_of_getLsbD_eq fun i hi => ?_
  simp only [formatI, fieldClass, fieldX, fieldKK, BitVec.getLsbD_append, BitVec.getLsbD_extractLsb']
  interval_cases i <;> simp

/-- A word is its class and NNN (R92, format A). -/
theorem formatA_fields (w : Word) : formatA (fieldClass w) (fieldNNN w) = w := by
  refine BitVec.eq_of_getLsbD_eq fun i hi => ?_
  simp only [formatA, fieldClass, fieldNNN, BitVec.getLsbD_append, BitVec.getLsbD_extractLsb']
  interval_cases i <;> simp

/-- Under the mask of a class a word keeps its class alone. -/
theorem and_F000 (w : Word) : w &&& 0xF000 = formatR (fieldClass w) 0 0 0 := by
  refine BitVec.eq_of_getLsbD_eq fun i hi => ?_
  simp only [formatR, fieldClass, BitVec.getLsbD_append, BitVec.getLsbD_extractLsb', BitVec.getLsbD_and]
  interval_cases i <;> simp

/-- Under the mask of class 0x8 a word keeps its class and N. -/
theorem and_F00F (w : Word) : w &&& 0xF00F = formatR (fieldClass w) 0 0 (fieldN w) := by
  refine BitVec.eq_of_getLsbD_eq fun i hi => ?_
  simp only [formatR, fieldClass, fieldN, BitVec.getLsbD_append, BitVec.getLsbD_extractLsb', BitVec.getLsbD_and]
  interval_cases i <;> simp

/-- Under the mask of classes 0xE and 0xF a word keeps its class and KK. -/
theorem and_F0FF (w : Word) : w &&& 0xF0FF = formatF (fieldClass w) 0 (fieldKK w) := by
  refine BitVec.eq_of_getLsbD_eq fun i hi => ?_
  simp only [formatF, fieldClass, fieldKK, BitVec.getLsbD_append, BitVec.getLsbD_extractLsb', BitVec.getLsbD_and]
  interval_cases i <;> simp

end Sys2Proof
end

