-- ==== Sys2Proof/Laws/Framebuffer.lean ====
section
/-! SUPPORT. The pixel grid: reading after writing, one pixel of Composite, and one row of it. -/

namespace Sys2Proof.Machine

variable (g : Grid) (r r' : Fin Config.gridH) (c c' : Fin Config.gridW) (p : Bool)

/-- Reading a cell after a write: the cell written gives the value, every other what it held. -/
@[simp] theorem Grid.cell_setCell : (g.setCell r c p).cell r' c' = if r' = r ∧ c' = c then p else g.cell r' c' := by
  by_cases hr : r' = r
  · subst hr
    by_cases hc : c' = c
    · subst hc; simp [Grid.cell, Grid.setCell]
    · have : c.val ≠ c'.val := fun h => hc (Fin.ext h.symm)
      simp [Grid.cell, Grid.setCell, hc, this]
  · have : r.val ≠ r'.val := fun h => hr (Fin.ext h.symm)
    simp [Grid.cell, Grid.setCell, hr, this]

/-- Every cell of the cleared grid is off (45_display.md R230). -/
@[simp] theorem cell_clearGrid : clearGrid.cell r c = false := by simp [Grid.cell, clearGrid]

/-- Grids that read the same are the same. -/
theorem Grid.ext_cell {g h : Grid} (e : ∀ r c, g.cell r c = h.cell r c) : g = h := by
  apply Vector.ext
  intro i hi
  apply Vector.ext
  intro j hj
  exact e ⟨i, hi⟩ ⟨j, hj⟩

/-- One pixel of Composite toggles its cell when the sprite bit is 1 and touches no other. -/
theorem cell_compositePixel (acc : Grid × Bool) :
    (compositePixel r c p acc).1.cell r' c' = (acc.1.cell r' c' ^^ (decide (r' = r ∧ c' = c) && p)) := by
  by_cases h : r' = r ∧ c' = c
  · obtain ⟨rfl, rfl⟩ := h; simp [compositePixel]
  · simp [compositePixel, h]

/-- One pixel of Composite collides when the sprite bit is 1 on a cell that is on. -/
theorem collision_compositePixel (acc : Grid × Bool) :
    (compositePixel r c p acc).2 = (acc.2 || (p && acc.1.cell r c)) := by
  simp only [compositePixel]
  cases acc.1.cell r c <;> cases p <;> rfl

/-- Exclusive or of two conditions that exclude each other. -/
theorem decide_xor_of_exclusive {a b d : Prop} [Decidable a] [Decidable b] [Decidable d] (h : d ↔ a ∨ b)
    (hx : ¬ (a ∧ b)) : (decide a ^^ decide b) = decide d := by
  by_cases ha : a <;> by_cases hb : b <;> simp_all

/-- The 8 columns of a row are distinct (45_display.md R233). -/
theorem gridCol_add_inj {x i j : Nat} (hi : i < 8) (hj : j < 8) (h : gridCol (x + i) = gridCol (x + j)) : i = j := by
  simp only [gridCol, Fin.mk.injEq] at h; omega

/-- The rows of a sprite are distinct (45_display.md R233). -/
theorem gridRow_add_inj {y i j : Nat} (hi : i < 32) (hj : j < 32) (h : gridRow (y + i) = gridRow (y + j)) : i = j := by
  simp only [gridRow, Fin.mk.injEq] at h; omega

section Row

variable (x y : Nat) (row : Byte) (n : Nat) (acc : Grid × Bool)

/-- The first `n` pixels of a row of Composite; `compositeRow` is 8 of them. -/
def rowPixels (x y : Nat) (row : Byte) (n : Nat) (acc : Grid × Bool) : Grid × Bool :=
  (List.range n).foldl (fun a j => compositePixel (gridRow y) (gridCol (x + j)) (row.getLsbD (7 - j)) a) acc

theorem compositeRow_eq : compositeRow x y row acc = rowPixels x y row 8 acc := rfl

theorem rowPixels_succ : rowPixels x y row (n + 1) acc =
    compositePixel (gridRow y) (gridCol (x + n)) (row.getLsbD (7 - n)) (rowPixels x y row n acc) := by
  simp [rowPixels, List.range_succ, List.foldl_append]

/-- A cell after the first `n` pixels of a row: toggled iff a sprite bit 1 fell on it. -/
theorem cell_rowPixels (hn : n ≤ 8) : (rowPixels x y row n acc).1.cell r c = (acc.1.cell r c ^^
    decide (r = gridRow y ∧ ∃ j, j < n ∧ c = gridCol (x + j) ∧ row.getLsbD (7 - j) = true)) := by
  induction n with
  | zero => simp [rowPixels]
  | succ n ih =>
    rw [rowPixels_succ, cell_compositePixel, ih (by omega), Bool.xor_assoc]
    congr 1
    rw [show (decide (r = gridRow y ∧ c = gridCol (x + n)) && row.getLsbD (7 - n)) =
      decide (r = gridRow y ∧ c = gridCol (x + n) ∧ row.getLsbD (7 - n) = true) by simp [Bool.and_assoc]]
    apply decide_xor_of_exclusive
    · constructor
      · rintro ⟨hr, j, hj, h, h'⟩
        rcases Nat.lt_succ_iff_lt_or_eq.1 hj with hlt | rfl
        · exact .inl ⟨hr, j, hlt, h, h'⟩
        · exact .inr ⟨hr, h, h'⟩
      · rintro (⟨hr, j, hj, h⟩ | ⟨hr, h⟩)
        · exact ⟨hr, j, by omega, h⟩
        · exact ⟨hr, n, by omega, h⟩
    · rintro ⟨⟨_, j, hj, h, _⟩, _, h', _⟩
      have := gridCol_add_inj (by omega) (by omega) (h'.symm.trans h)
      omega

/-- The collision after the first `n` pixels of a row: one before, or a sprite bit 1 on a cell that was on. -/
theorem collision_rowPixels (hn : n ≤ 8) : (rowPixels x y row n acc).2 = true ↔
    acc.2 = true ∨ ∃ j, j < n ∧ row.getLsbD (7 - j) = true ∧ acc.1.cell (gridRow y) (gridCol (x + j)) = true := by
  induction n with
  | zero => simp [rowPixels]
  | succ n ih =>
    have hc : (rowPixels x y row n acc).1.cell (gridRow y) (gridCol (x + n)) =
        acc.1.cell (gridRow y) (gridCol (x + n)) := by
      rw [cell_rowPixels _ _ _ _ _ _ _ (by omega)]
      have : ¬ ∃ j, j < n ∧ gridCol (x + n) = gridCol (x + j) ∧ row.getLsbD (7 - j) = true := by
        rintro ⟨j, hj, h, _⟩
        have := gridCol_add_inj (by omega) (by omega) h
        omega
      simp [this]
    rw [rowPixels_succ, collision_compositePixel, hc, Bool.or_eq_true, ih (by omega), Bool.and_eq_true, or_assoc]
    constructor
    · rintro (h | ⟨j, hj, h⟩ | h)
      · exact .inl h
      · exact .inr ⟨j, by omega, h⟩
      · exact .inr ⟨n, by omega, h⟩
    · rintro (h | ⟨j, hj, h⟩)
      · exact .inl h
      · rcases Nat.lt_succ_iff_lt_or_eq.1 hj with h' | rfl
        · exact .inr (.inl ⟨j, h', h⟩)
        · exact .inr (.inr h)

end Row

end Sys2Proof.Machine
end

