-- ==== Sys2Proof/Laws/Memory.lean ====
section
/-! SUPPORT. Memory: reading after writing, and that every memory operation keeps the canonical form. -/

namespace Sys2Proof.Machine

/-- Below every listed address a memory reads as unlisted. -/
theorem Memory.read_of_below {m : Memory} {b : Nat} (h : ∀ c ∈ m, b < c.1) : m.read b = Memory.unlisted b := by
  induction m with
  | nil => rfl
  | cons c m ih =>
    have hc := h c (by simp)
    have hne : b ≠ c.1 := by omega
    simp only [Memory.read, hne, if_false]
    exact ih fun d hd => h d (by simp [hd])

/-- A read after a write: the written address gives the value, every other address what it gave before. -/
theorem Memory.read_write (m : Memory) (hm : m.Pairwise fun c d => c.1 < d.1) (a b : Nat) (v : Byte) :
    (m.write a v).read b = if b = a then v else m.read b := by
  induction m with
  | nil =>
    by_cases h : b = a <;> by_cases hv : v = Memory.unlisted a <;> simp_all [Memory.write, Memory.read]
  | cons c m ih =>
    obtain ⟨k, w⟩ := c
    have hm' := List.pairwise_cons.1 hm
    have hk : Memory.read m k = Memory.unlisted k := Memory.read_of_below hm'.1
    rcases Nat.lt_trichotomy a k with h | rfl | h
    · have hlow : Memory.read ((k, w) :: m) a = Memory.unlisted a := Memory.read_of_below fun d hd => by
        rcases List.mem_cons.1 hd with rfl | hd
        · exact h
        · exact h.trans (hm'.1 d hd)
      by_cases hv : v = Memory.unlisted a <;> by_cases hb : b = a
      · subst hb; simp [Memory.write, h, hv, hlow]
      · simp [Memory.write, h, hv, hb]
      · simp [Memory.write, h, hv, hb, Memory.read]
      · simp [Memory.write, h, hv, hb, Memory.read]
    · by_cases hv : v = Memory.unlisted a <;> by_cases hb : b = a <;> simp [Memory.write, Memory.read, hv, hb, hk]
    · have h1 : ¬ a < k := by omega
      have h2 : a ≠ k := by omega
      by_cases hb : b = k
      · have h3 : k ≠ a := Ne.symm h2
        simp [Memory.write, Memory.read, h1, h2, hb, h3]
      · simp [Memory.write, Memory.read, h1, h2, hb, ih hm'.2]

/-- Where the entries of a written memory come from. -/
theorem Memory.mem_write {m : Memory} {a : Nat} {v : Byte} {c : Host.Cell} (h : c ∈ m.write a v) :
    c ∈ m ∨ (c = (a, v) ∧ v ≠ Memory.unlisted a) := by
  induction m with
  | nil =>
    unfold Memory.write at h
    split_ifs at h with h1
    · simp at h
    · simp_all
  | cons d m ih =>
    obtain ⟨k, w⟩ := d
    unfold Memory.write at h
    split_ifs at h <;> simp only [List.mem_cons] at h ⊢ <;> tauto

/-- A write keeps the addresses strictly rising. -/
theorem Memory.write_rising {m : Memory} (a : Nat) (v : Byte) (hm : m.Pairwise fun c d => c.1 < d.1) :
    (m.write a v).Pairwise fun c d => c.1 < d.1 := by
  induction m with
  | nil => unfold Memory.write; split_ifs <;> simp
  | cons d m ih =>
    obtain ⟨k, w⟩ := d
    have h0 := hm
    rw [List.pairwise_cons] at hm
    rcases Nat.lt_trichotomy a k with h | rfl | h
    · by_cases hv : v = Memory.unlisted a
      · simpa [Memory.write, h, hv] using h0
      · simp only [Memory.write, h, hv, if_true, if_false]
        refine List.pairwise_cons.2 ⟨fun c hc => ?_, h0⟩
        rcases List.mem_cons.1 hc with rfl | hc
        · exact h
        · exact h.trans (hm.1 c hc)
    · by_cases hv : v = Memory.unlisted a
      · simpa [Memory.write, hv] using hm.2
      · simpa [Memory.write, hv] using hm
    · have h1 : ¬ a < k := by omega
      have h2 : a ≠ k := by omega
      simp only [Memory.write, h1, h2, if_false]
      refine List.pairwise_cons.2 ⟨fun c hc => ?_, ih hm.2⟩
      rcases Memory.mem_write hc with hc | ⟨rfl, _⟩
      · exact hm.1 c hc
      · exact h

/-- A write inside the memory image keeps the canonical form. -/
theorem Memory.write_wf {m : Memory} {a : Nat} (v : Byte) (hm : m.wf) (ha : a < Config.memSize) : (m.write a v).wf := by
  refine ⟨Memory.write_rising a v hm.1, fun c hc => ?_⟩
  rcases Memory.mem_write hc with h | ⟨rfl, h⟩
  · exact hm.2 c h
  · exact ⟨ha, h⟩

/-- Storing bytes inside the memory image keeps the canonical form. -/
theorem Memory.writeBytes_wf {m : Memory} {a : Nat} {bs : List Byte} (hm : m.wf) (h : a + bs.length ≤ Config.memSize) :
    (m.writeBytes a bs).wf := by
  induction bs generalizing m a with
  | nil => exact hm
  | cons b bs ih =>
    simp only [List.length_cons] at h
    exact ih (Memory.write_wf b hm (by omega)) (by omega)

/-- Storing bytes keeps the addresses strictly rising. -/
theorem Memory.writeBytes_rising {m : Memory} (a : Nat) (bs : List Byte) (hm : m.Pairwise fun c d => c.1 < d.1) :
    (m.writeBytes a bs).Pairwise fun c d => c.1 < d.1 := by
  induction bs generalizing m a with
  | nil => exact hm
  | cons b bs ih => exact ih (a + 1) (Memory.write_rising a b hm)

/-- What reads after storing bytes: inside the range the byte stored there, outside it what was there before. -/
theorem Memory.read_writeBytes (m : Memory) (hm : m.Pairwise fun c d => c.1 < d.1) (a : Nat) (bs : List Byte) (b : Nat) :
    (m.writeBytes a bs).read b = if a ≤ b ∧ b < a + bs.length then bs.getD (b - a) 0 else m.read b := by
  induction bs generalizing m a with
  | nil => simp [Memory.writeBytes]
  | cons v bs ih =>
    rw [Memory.writeBytes, ih _ (Memory.write_rising a v hm), Memory.read_write m hm]
    rcases Nat.lt_trichotomy b a with h | rfl | h
    · rw [if_neg (by omega), if_neg (by omega), if_neg (by omega)]
    · rw [if_neg (by omega), if_pos rfl, if_pos (by simp)]
      simp
    · have h' : b - a = (b - (a + 1)) + 1 := by omega
      have hne : ¬ b = a := by omega
      simp only [hne, if_false, List.length_cons, h', List.getD_cons_succ]
      by_cases hin : b < a + 1 + bs.length
      · rw [if_pos ⟨by omega, hin⟩, if_pos ⟨by omega, by omega⟩]
      · rw [if_neg (by omega), if_neg (by omega)]

/-- Outside the stored range nothing changes. -/
theorem Memory.read_writeBytes_of_outside {m : Memory} (hm : m.Pairwise fun c d => c.1 < d.1) {a b : Nat} {bs : List Byte}
    (h : ¬ (a ≤ b ∧ b < a + bs.length)) : (m.writeBytes a bs).read b = m.read b := by
  rw [Memory.read_writeBytes m hm, if_neg h]

/-- The byte stored at offset `k`. -/
theorem Memory.read_writeBytes_at {m : Memory} (hm : m.Pairwise fun c d => c.1 < d.1) {a k : Nat} {bs : List Byte}
    (h : k < bs.length) : (m.writeBytes a bs).read (a + k) = bs[k] := by
  rw [Memory.read_writeBytes m hm, if_pos ⟨by omega, by omega⟩]
  simp [h]

/-- The bytes read are the bytes at those addresses. -/
@[simp] theorem Memory.length_readBytes (m : Memory) (a n : Nat) : (m.readBytes a n).length = n := by
  simp [Memory.readBytes]

@[simp] theorem Memory.getElem_readBytes (m : Memory) (a n k : Nat) (h : k < (m.readBytes a n).length) :
    (m.readBytes a n)[k] = m.read (a + k) := by
  simp [Memory.readBytes]

end Sys2Proof.Machine
end

