-- ==== Sys2Proof/Laws/State.lean ====
section
/-! SUPPORT. What every field reads after every update of a field: true by `rfl`, so that no later proof unfolds a
record update. -/

namespace Sys2Proof.Machine.State

variable (s : State)

@[simp] theorem setMem_mem (v) : (s.setMem v).mem = v := rfl
@[simp] theorem setMem_x (v) : (s.setMem v).x = s.x := rfl
@[simp] theorem setMem_I (v) : (s.setMem v).I = s.I := rfl
@[simp] theorem setMem_pc (v) : (s.setMem v).pc = s.pc := rfl
@[simp] theorem setMem_stack (v) : (s.setMem v).stack = s.stack := rfl
@[simp] theorem setMem_sp (v) : (s.setMem v).sp = s.sp := rfl
@[simp] theorem setMem_dt (v) : (s.setMem v).dt = s.dt := rfl
@[simp] theorem setMem_st (v) : (s.setMem v).st = s.st := rfl
@[simp] theorem setMem_key (v) : (s.setMem v).key = s.key := rfl
@[simp] theorem setMem_paused (v) : (s.setMem v).paused = s.paused := rfl
@[simp] theorem setMem_grid (v) : (s.setMem v).grid = s.grid := rfl
@[simp] theorem setMem_result (v) : (s.setMem v).result = s.result := rfl
@[simp] theorem setMem_drawReq (v) : (s.setMem v).drawReq = s.drawReq := rfl
@[simp] theorem setMem_reports (v) : (s.setMem v).reports = s.reports := rfl
@[simp] theorem setMem_randIn (v) : (s.setMem v).randIn = s.randIn := rfl
@[simp] theorem setMem_randCount (v) : (s.setMem v).randCount = s.randCount := rfl
@[simp] theorem setX_mem (v) : (s.setX v).mem = s.mem := rfl
@[simp] theorem setX_x (v) : (s.setX v).x = v := rfl
@[simp] theorem setX_I (v) : (s.setX v).I = s.I := rfl
@[simp] theorem setX_pc (v) : (s.setX v).pc = s.pc := rfl
@[simp] theorem setX_stack (v) : (s.setX v).stack = s.stack := rfl
@[simp] theorem setX_sp (v) : (s.setX v).sp = s.sp := rfl
@[simp] theorem setX_dt (v) : (s.setX v).dt = s.dt := rfl
@[simp] theorem setX_st (v) : (s.setX v).st = s.st := rfl
@[simp] theorem setX_key (v) : (s.setX v).key = s.key := rfl
@[simp] theorem setX_paused (v) : (s.setX v).paused = s.paused := rfl
@[simp] theorem setX_grid (v) : (s.setX v).grid = s.grid := rfl
@[simp] theorem setX_result (v) : (s.setX v).result = s.result := rfl
@[simp] theorem setX_drawReq (v) : (s.setX v).drawReq = s.drawReq := rfl
@[simp] theorem setX_reports (v) : (s.setX v).reports = s.reports := rfl
@[simp] theorem setX_randIn (v) : (s.setX v).randIn = s.randIn := rfl
@[simp] theorem setX_randCount (v) : (s.setX v).randCount = s.randCount := rfl
@[simp] theorem setI_mem (v) : (s.setI v).mem = s.mem := rfl
@[simp] theorem setI_x (v) : (s.setI v).x = s.x := rfl
@[simp] theorem setI_I (v) : (s.setI v).I = v := rfl
@[simp] theorem setI_pc (v) : (s.setI v).pc = s.pc := rfl
@[simp] theorem setI_stack (v) : (s.setI v).stack = s.stack := rfl
@[simp] theorem setI_sp (v) : (s.setI v).sp = s.sp := rfl
@[simp] theorem setI_dt (v) : (s.setI v).dt = s.dt := rfl
@[simp] theorem setI_st (v) : (s.setI v).st = s.st := rfl
@[simp] theorem setI_key (v) : (s.setI v).key = s.key := rfl
@[simp] theorem setI_paused (v) : (s.setI v).paused = s.paused := rfl
@[simp] theorem setI_grid (v) : (s.setI v).grid = s.grid := rfl
@[simp] theorem setI_result (v) : (s.setI v).result = s.result := rfl
@[simp] theorem setI_drawReq (v) : (s.setI v).drawReq = s.drawReq := rfl
@[simp] theorem setI_reports (v) : (s.setI v).reports = s.reports := rfl
@[simp] theorem setI_randIn (v) : (s.setI v).randIn = s.randIn := rfl
@[simp] theorem setI_randCount (v) : (s.setI v).randCount = s.randCount := rfl
@[simp] theorem setPc_mem (v) : (s.setPc v).mem = s.mem := rfl
@[simp] theorem setPc_x (v) : (s.setPc v).x = s.x := rfl
@[simp] theorem setPc_I (v) : (s.setPc v).I = s.I := rfl
@[simp] theorem setPc_pc (v) : (s.setPc v).pc = v := rfl
@[simp] theorem setPc_stack (v) : (s.setPc v).stack = s.stack := rfl
@[simp] theorem setPc_sp (v) : (s.setPc v).sp = s.sp := rfl
@[simp] theorem setPc_dt (v) : (s.setPc v).dt = s.dt := rfl
@[simp] theorem setPc_st (v) : (s.setPc v).st = s.st := rfl
@[simp] theorem setPc_key (v) : (s.setPc v).key = s.key := rfl
@[simp] theorem setPc_paused (v) : (s.setPc v).paused = s.paused := rfl
@[simp] theorem setPc_grid (v) : (s.setPc v).grid = s.grid := rfl
@[simp] theorem setPc_result (v) : (s.setPc v).result = s.result := rfl
@[simp] theorem setPc_drawReq (v) : (s.setPc v).drawReq = s.drawReq := rfl
@[simp] theorem setPc_reports (v) : (s.setPc v).reports = s.reports := rfl
@[simp] theorem setPc_randIn (v) : (s.setPc v).randIn = s.randIn := rfl
@[simp] theorem setPc_randCount (v) : (s.setPc v).randCount = s.randCount := rfl
@[simp] theorem setStack_mem (v) : (s.setStack v).mem = s.mem := rfl
@[simp] theorem setStack_x (v) : (s.setStack v).x = s.x := rfl
@[simp] theorem setStack_I (v) : (s.setStack v).I = s.I := rfl
@[simp] theorem setStack_pc (v) : (s.setStack v).pc = s.pc := rfl
@[simp] theorem setStack_stack (v) : (s.setStack v).stack = v := rfl
@[simp] theorem setStack_sp (v) : (s.setStack v).sp = s.sp := rfl
@[simp] theorem setStack_dt (v) : (s.setStack v).dt = s.dt := rfl
@[simp] theorem setStack_st (v) : (s.setStack v).st = s.st := rfl
@[simp] theorem setStack_key (v) : (s.setStack v).key = s.key := rfl
@[simp] theorem setStack_paused (v) : (s.setStack v).paused = s.paused := rfl
@[simp] theorem setStack_grid (v) : (s.setStack v).grid = s.grid := rfl
@[simp] theorem setStack_result (v) : (s.setStack v).result = s.result := rfl
@[simp] theorem setStack_drawReq (v) : (s.setStack v).drawReq = s.drawReq := rfl
@[simp] theorem setStack_reports (v) : (s.setStack v).reports = s.reports := rfl
@[simp] theorem setStack_randIn (v) : (s.setStack v).randIn = s.randIn := rfl
@[simp] theorem setStack_randCount (v) : (s.setStack v).randCount = s.randCount := rfl
@[simp] theorem setSp_mem (v) : (s.setSp v).mem = s.mem := rfl
@[simp] theorem setSp_x (v) : (s.setSp v).x = s.x := rfl
@[simp] theorem setSp_I (v) : (s.setSp v).I = s.I := rfl
@[simp] theorem setSp_pc (v) : (s.setSp v).pc = s.pc := rfl
@[simp] theorem setSp_stack (v) : (s.setSp v).stack = s.stack := rfl
@[simp] theorem setSp_sp (v) : (s.setSp v).sp = v := rfl
@[simp] theorem setSp_dt (v) : (s.setSp v).dt = s.dt := rfl
@[simp] theorem setSp_st (v) : (s.setSp v).st = s.st := rfl
@[simp] theorem setSp_key (v) : (s.setSp v).key = s.key := rfl
@[simp] theorem setSp_paused (v) : (s.setSp v).paused = s.paused := rfl
@[simp] theorem setSp_grid (v) : (s.setSp v).grid = s.grid := rfl
@[simp] theorem setSp_result (v) : (s.setSp v).result = s.result := rfl
@[simp] theorem setSp_drawReq (v) : (s.setSp v).drawReq = s.drawReq := rfl
@[simp] theorem setSp_reports (v) : (s.setSp v).reports = s.reports := rfl
@[simp] theorem setSp_randIn (v) : (s.setSp v).randIn = s.randIn := rfl
@[simp] theorem setSp_randCount (v) : (s.setSp v).randCount = s.randCount := rfl
@[simp] theorem setDt_mem (v) : (s.setDt v).mem = s.mem := rfl
@[simp] theorem setDt_x (v) : (s.setDt v).x = s.x := rfl
@[simp] theorem setDt_I (v) : (s.setDt v).I = s.I := rfl
@[simp] theorem setDt_pc (v) : (s.setDt v).pc = s.pc := rfl
@[simp] theorem setDt_stack (v) : (s.setDt v).stack = s.stack := rfl
@[simp] theorem setDt_sp (v) : (s.setDt v).sp = s.sp := rfl
@[simp] theorem setDt_dt (v) : (s.setDt v).dt = v := rfl
@[simp] theorem setDt_st (v) : (s.setDt v).st = s.st := rfl
@[simp] theorem setDt_key (v) : (s.setDt v).key = s.key := rfl
@[simp] theorem setDt_paused (v) : (s.setDt v).paused = s.paused := rfl
@[simp] theorem setDt_grid (v) : (s.setDt v).grid = s.grid := rfl
@[simp] theorem setDt_result (v) : (s.setDt v).result = s.result := rfl
@[simp] theorem setDt_drawReq (v) : (s.setDt v).drawReq = s.drawReq := rfl
@[simp] theorem setDt_reports (v) : (s.setDt v).reports = s.reports := rfl
@[simp] theorem setDt_randIn (v) : (s.setDt v).randIn = s.randIn := rfl
@[simp] theorem setDt_randCount (v) : (s.setDt v).randCount = s.randCount := rfl
@[simp] theorem setSt_mem (v) : (s.setSt v).mem = s.mem := rfl
@[simp] theorem setSt_x (v) : (s.setSt v).x = s.x := rfl
@[simp] theorem setSt_I (v) : (s.setSt v).I = s.I := rfl
@[simp] theorem setSt_pc (v) : (s.setSt v).pc = s.pc := rfl
@[simp] theorem setSt_stack (v) : (s.setSt v).stack = s.stack := rfl
@[simp] theorem setSt_sp (v) : (s.setSt v).sp = s.sp := rfl
@[simp] theorem setSt_dt (v) : (s.setSt v).dt = s.dt := rfl
@[simp] theorem setSt_st (v) : (s.setSt v).st = v := rfl
@[simp] theorem setSt_key (v) : (s.setSt v).key = s.key := rfl
@[simp] theorem setSt_paused (v) : (s.setSt v).paused = s.paused := rfl
@[simp] theorem setSt_grid (v) : (s.setSt v).grid = s.grid := rfl
@[simp] theorem setSt_result (v) : (s.setSt v).result = s.result := rfl
@[simp] theorem setSt_drawReq (v) : (s.setSt v).drawReq = s.drawReq := rfl
@[simp] theorem setSt_reports (v) : (s.setSt v).reports = s.reports := rfl
@[simp] theorem setSt_randIn (v) : (s.setSt v).randIn = s.randIn := rfl
@[simp] theorem setSt_randCount (v) : (s.setSt v).randCount = s.randCount := rfl
@[simp] theorem setKey_mem (v) : (s.setKey v).mem = s.mem := rfl
@[simp] theorem setKey_x (v) : (s.setKey v).x = s.x := rfl
@[simp] theorem setKey_I (v) : (s.setKey v).I = s.I := rfl
@[simp] theorem setKey_pc (v) : (s.setKey v).pc = s.pc := rfl
@[simp] theorem setKey_stack (v) : (s.setKey v).stack = s.stack := rfl
@[simp] theorem setKey_sp (v) : (s.setKey v).sp = s.sp := rfl
@[simp] theorem setKey_dt (v) : (s.setKey v).dt = s.dt := rfl
@[simp] theorem setKey_st (v) : (s.setKey v).st = s.st := rfl
@[simp] theorem setKey_key (v) : (s.setKey v).key = v := rfl
@[simp] theorem setKey_paused (v) : (s.setKey v).paused = s.paused := rfl
@[simp] theorem setKey_grid (v) : (s.setKey v).grid = s.grid := rfl
@[simp] theorem setKey_result (v) : (s.setKey v).result = s.result := rfl
@[simp] theorem setKey_drawReq (v) : (s.setKey v).drawReq = s.drawReq := rfl
@[simp] theorem setKey_reports (v) : (s.setKey v).reports = s.reports := rfl
@[simp] theorem setKey_randIn (v) : (s.setKey v).randIn = s.randIn := rfl
@[simp] theorem setKey_randCount (v) : (s.setKey v).randCount = s.randCount := rfl
@[simp] theorem setPaused_mem (v) : (s.setPaused v).mem = s.mem := rfl
@[simp] theorem setPaused_x (v) : (s.setPaused v).x = s.x := rfl
@[simp] theorem setPaused_I (v) : (s.setPaused v).I = s.I := rfl
@[simp] theorem setPaused_pc (v) : (s.setPaused v).pc = s.pc := rfl
@[simp] theorem setPaused_stack (v) : (s.setPaused v).stack = s.stack := rfl
@[simp] theorem setPaused_sp (v) : (s.setPaused v).sp = s.sp := rfl
@[simp] theorem setPaused_dt (v) : (s.setPaused v).dt = s.dt := rfl
@[simp] theorem setPaused_st (v) : (s.setPaused v).st = s.st := rfl
@[simp] theorem setPaused_key (v) : (s.setPaused v).key = s.key := rfl
@[simp] theorem setPaused_paused (v) : (s.setPaused v).paused = v := rfl
@[simp] theorem setPaused_grid (v) : (s.setPaused v).grid = s.grid := rfl
@[simp] theorem setPaused_result (v) : (s.setPaused v).result = s.result := rfl
@[simp] theorem setPaused_drawReq (v) : (s.setPaused v).drawReq = s.drawReq := rfl
@[simp] theorem setPaused_reports (v) : (s.setPaused v).reports = s.reports := rfl
@[simp] theorem setPaused_randIn (v) : (s.setPaused v).randIn = s.randIn := rfl
@[simp] theorem setPaused_randCount (v) : (s.setPaused v).randCount = s.randCount := rfl
@[simp] theorem setGrid_mem (v) : (s.setGrid v).mem = s.mem := rfl
@[simp] theorem setGrid_x (v) : (s.setGrid v).x = s.x := rfl
@[simp] theorem setGrid_I (v) : (s.setGrid v).I = s.I := rfl
@[simp] theorem setGrid_pc (v) : (s.setGrid v).pc = s.pc := rfl
@[simp] theorem setGrid_stack (v) : (s.setGrid v).stack = s.stack := rfl
@[simp] theorem setGrid_sp (v) : (s.setGrid v).sp = s.sp := rfl
@[simp] theorem setGrid_dt (v) : (s.setGrid v).dt = s.dt := rfl
@[simp] theorem setGrid_st (v) : (s.setGrid v).st = s.st := rfl
@[simp] theorem setGrid_key (v) : (s.setGrid v).key = s.key := rfl
@[simp] theorem setGrid_paused (v) : (s.setGrid v).paused = s.paused := rfl
@[simp] theorem setGrid_grid (v) : (s.setGrid v).grid = v := rfl
@[simp] theorem setGrid_result (v) : (s.setGrid v).result = s.result := rfl
@[simp] theorem setGrid_drawReq (v) : (s.setGrid v).drawReq = s.drawReq := rfl
@[simp] theorem setGrid_reports (v) : (s.setGrid v).reports = s.reports := rfl
@[simp] theorem setGrid_randIn (v) : (s.setGrid v).randIn = s.randIn := rfl
@[simp] theorem setGrid_randCount (v) : (s.setGrid v).randCount = s.randCount := rfl
@[simp] theorem setResult_mem (v) : (s.setResult v).mem = s.mem := rfl
@[simp] theorem setResult_x (v) : (s.setResult v).x = s.x := rfl
@[simp] theorem setResult_I (v) : (s.setResult v).I = s.I := rfl
@[simp] theorem setResult_pc (v) : (s.setResult v).pc = s.pc := rfl
@[simp] theorem setResult_stack (v) : (s.setResult v).stack = s.stack := rfl
@[simp] theorem setResult_sp (v) : (s.setResult v).sp = s.sp := rfl
@[simp] theorem setResult_dt (v) : (s.setResult v).dt = s.dt := rfl
@[simp] theorem setResult_st (v) : (s.setResult v).st = s.st := rfl
@[simp] theorem setResult_key (v) : (s.setResult v).key = s.key := rfl
@[simp] theorem setResult_paused (v) : (s.setResult v).paused = s.paused := rfl
@[simp] theorem setResult_grid (v) : (s.setResult v).grid = s.grid := rfl
@[simp] theorem setResult_result (v) : (s.setResult v).result = v := rfl
@[simp] theorem setResult_drawReq (v) : (s.setResult v).drawReq = s.drawReq := rfl
@[simp] theorem setResult_reports (v) : (s.setResult v).reports = s.reports := rfl
@[simp] theorem setResult_randIn (v) : (s.setResult v).randIn = s.randIn := rfl
@[simp] theorem setResult_randCount (v) : (s.setResult v).randCount = s.randCount := rfl
@[simp] theorem setDrawReq_mem (v) : (s.setDrawReq v).mem = s.mem := rfl
@[simp] theorem setDrawReq_x (v) : (s.setDrawReq v).x = s.x := rfl
@[simp] theorem setDrawReq_I (v) : (s.setDrawReq v).I = s.I := rfl
@[simp] theorem setDrawReq_pc (v) : (s.setDrawReq v).pc = s.pc := rfl
@[simp] theorem setDrawReq_stack (v) : (s.setDrawReq v).stack = s.stack := rfl
@[simp] theorem setDrawReq_sp (v) : (s.setDrawReq v).sp = s.sp := rfl
@[simp] theorem setDrawReq_dt (v) : (s.setDrawReq v).dt = s.dt := rfl
@[simp] theorem setDrawReq_st (v) : (s.setDrawReq v).st = s.st := rfl
@[simp] theorem setDrawReq_key (v) : (s.setDrawReq v).key = s.key := rfl
@[simp] theorem setDrawReq_paused (v) : (s.setDrawReq v).paused = s.paused := rfl
@[simp] theorem setDrawReq_grid (v) : (s.setDrawReq v).grid = s.grid := rfl
@[simp] theorem setDrawReq_result (v) : (s.setDrawReq v).result = s.result := rfl
@[simp] theorem setDrawReq_drawReq (v) : (s.setDrawReq v).drawReq = v := rfl
@[simp] theorem setDrawReq_reports (v) : (s.setDrawReq v).reports = s.reports := rfl
@[simp] theorem setDrawReq_randIn (v) : (s.setDrawReq v).randIn = s.randIn := rfl
@[simp] theorem setDrawReq_randCount (v) : (s.setDrawReq v).randCount = s.randCount := rfl
@[simp] theorem setReports_mem (v) : (s.setReports v).mem = s.mem := rfl
@[simp] theorem setReports_x (v) : (s.setReports v).x = s.x := rfl
@[simp] theorem setReports_I (v) : (s.setReports v).I = s.I := rfl
@[simp] theorem setReports_pc (v) : (s.setReports v).pc = s.pc := rfl
@[simp] theorem setReports_stack (v) : (s.setReports v).stack = s.stack := rfl
@[simp] theorem setReports_sp (v) : (s.setReports v).sp = s.sp := rfl
@[simp] theorem setReports_dt (v) : (s.setReports v).dt = s.dt := rfl
@[simp] theorem setReports_st (v) : (s.setReports v).st = s.st := rfl
@[simp] theorem setReports_key (v) : (s.setReports v).key = s.key := rfl
@[simp] theorem setReports_paused (v) : (s.setReports v).paused = s.paused := rfl
@[simp] theorem setReports_grid (v) : (s.setReports v).grid = s.grid := rfl
@[simp] theorem setReports_result (v) : (s.setReports v).result = s.result := rfl
@[simp] theorem setReports_drawReq (v) : (s.setReports v).drawReq = s.drawReq := rfl
@[simp] theorem setReports_reports (v) : (s.setReports v).reports = v := rfl
@[simp] theorem setReports_randIn (v) : (s.setReports v).randIn = s.randIn := rfl
@[simp] theorem setReports_randCount (v) : (s.setReports v).randCount = s.randCount := rfl
@[simp] theorem setRandIn_mem (v) : (s.setRandIn v).mem = s.mem := rfl
@[simp] theorem setRandIn_x (v) : (s.setRandIn v).x = s.x := rfl
@[simp] theorem setRandIn_I (v) : (s.setRandIn v).I = s.I := rfl
@[simp] theorem setRandIn_pc (v) : (s.setRandIn v).pc = s.pc := rfl
@[simp] theorem setRandIn_stack (v) : (s.setRandIn v).stack = s.stack := rfl
@[simp] theorem setRandIn_sp (v) : (s.setRandIn v).sp = s.sp := rfl
@[simp] theorem setRandIn_dt (v) : (s.setRandIn v).dt = s.dt := rfl
@[simp] theorem setRandIn_st (v) : (s.setRandIn v).st = s.st := rfl
@[simp] theorem setRandIn_key (v) : (s.setRandIn v).key = s.key := rfl
@[simp] theorem setRandIn_paused (v) : (s.setRandIn v).paused = s.paused := rfl
@[simp] theorem setRandIn_grid (v) : (s.setRandIn v).grid = s.grid := rfl
@[simp] theorem setRandIn_result (v) : (s.setRandIn v).result = s.result := rfl
@[simp] theorem setRandIn_drawReq (v) : (s.setRandIn v).drawReq = s.drawReq := rfl
@[simp] theorem setRandIn_reports (v) : (s.setRandIn v).reports = s.reports := rfl
@[simp] theorem setRandIn_randIn (v) : (s.setRandIn v).randIn = v := rfl
@[simp] theorem setRandIn_randCount (v) : (s.setRandIn v).randCount = s.randCount := rfl
@[simp] theorem setRandCount_mem (v) : (s.setRandCount v).mem = s.mem := rfl
@[simp] theorem setRandCount_x (v) : (s.setRandCount v).x = s.x := rfl
@[simp] theorem setRandCount_I (v) : (s.setRandCount v).I = s.I := rfl
@[simp] theorem setRandCount_pc (v) : (s.setRandCount v).pc = s.pc := rfl
@[simp] theorem setRandCount_stack (v) : (s.setRandCount v).stack = s.stack := rfl
@[simp] theorem setRandCount_sp (v) : (s.setRandCount v).sp = s.sp := rfl
@[simp] theorem setRandCount_dt (v) : (s.setRandCount v).dt = s.dt := rfl
@[simp] theorem setRandCount_st (v) : (s.setRandCount v).st = s.st := rfl
@[simp] theorem setRandCount_key (v) : (s.setRandCount v).key = s.key := rfl
@[simp] theorem setRandCount_paused (v) : (s.setRandCount v).paused = s.paused := rfl
@[simp] theorem setRandCount_grid (v) : (s.setRandCount v).grid = s.grid := rfl
@[simp] theorem setRandCount_result (v) : (s.setRandCount v).result = s.result := rfl
@[simp] theorem setRandCount_drawReq (v) : (s.setRandCount v).drawReq = s.drawReq := rfl
@[simp] theorem setRandCount_reports (v) : (s.setRandCount v).reports = s.reports := rfl
@[simp] theorem setRandCount_randIn (v) : (s.setRandCount v).randIn = s.randIn := rfl
@[simp] theorem setRandCount_randCount (v) : (s.setRandCount v).randCount = v := rfl

end Sys2Proof.Machine.State
end

