-- ==== Sys2Proof/Laws/Registers.lean ====
section
/-! SUPPORT. The register file: reading after writing, and what the register and pc operations leave alone. -/

namespace Sys2Proof.Machine.State

variable (s : State) (r q : RegIdx) (b : Byte) (f c : Bool)

/-- Reading a register after a write: the register written gives the value, every other what it held. -/
@[simp] theorem reg_setReg : (s.setReg r b).reg q = if q = r then b else s.reg q := by
  simp [reg, setReg, Vector.getElem_set, BitVec.toNat_inj, eq_comm]

/-- The flag register after the flag write holds 1 or 0, every other register what it held. -/
@[simp] theorem reg_setFlag : (s.setFlag f).reg q = if q = Config.flagReg then (if f then 0x01 else 0x00) else s.reg q := by
  simp [setFlag]

/-- The result and then the flag: VF holds the flag, also when the result was to go there (42_alu.md R160). -/
@[simp] theorem reg_writeResultFlag : (s.writeResultFlag r b f).reg q =
    if q = Config.flagReg then (if f then 0x01 else 0x00) else if q = r then b else s.reg q := by
  simp [writeResultFlag]

@[simp] theorem reg_setMem (v) : (s.setMem v).reg r = s.reg r := rfl
@[simp] theorem reg_setI (v) : (s.setI v).reg r = s.reg r := rfl
@[simp] theorem reg_setPc (v) : (s.setPc v).reg r = s.reg r := rfl
@[simp] theorem reg_setStack (v) : (s.setStack v).reg r = s.reg r := rfl
@[simp] theorem reg_setSp (v) : (s.setSp v).reg r = s.reg r := rfl
@[simp] theorem reg_setDt (v) : (s.setDt v).reg r = s.reg r := rfl
@[simp] theorem reg_setSt (v) : (s.setSt v).reg r = s.reg r := rfl
@[simp] theorem reg_setKey (v) : (s.setKey v).reg r = s.reg r := rfl
@[simp] theorem reg_setPaused (v) : (s.setPaused v).reg r = s.reg r := rfl
@[simp] theorem reg_setGrid (v) : (s.setGrid v).reg r = s.reg r := rfl
@[simp] theorem reg_setResult (v) : (s.setResult v).reg r = s.reg r := rfl
@[simp] theorem reg_setDrawReq (v) : (s.setDrawReq v).reg r = s.reg r := rfl
@[simp] theorem reg_setReports (v) : (s.setReports v).reg r = s.reg r := rfl
@[simp] theorem reg_setRandIn (v) : (s.setRandIn v).reg r = s.reg r := rfl
@[simp] theorem reg_setRandCount (v) : (s.setRandCount v).reg r = s.reg r := rfl
@[simp] theorem reg_advance : s.advance.reg r = s.reg r := rfl
@[simp] theorem reg_skip : s.skip.reg r = s.reg r := rfl
@[simp] theorem reg_skipIf : (s.skipIf c).reg r = s.reg r := by cases c <;> rfl
@[simp] theorem setReg_mem : (s.setReg r b).mem = s.mem := rfl
@[simp] theorem setFlag_mem : (s.setFlag f).mem = s.mem := rfl
@[simp] theorem writeResultFlag_mem : (s.writeResultFlag r b f).mem = s.mem := rfl
@[simp] theorem setReg_I : (s.setReg r b).I = s.I := rfl
@[simp] theorem setFlag_I : (s.setFlag f).I = s.I := rfl
@[simp] theorem writeResultFlag_I : (s.writeResultFlag r b f).I = s.I := rfl
@[simp] theorem setReg_pc : (s.setReg r b).pc = s.pc := rfl
@[simp] theorem setFlag_pc : (s.setFlag f).pc = s.pc := rfl
@[simp] theorem writeResultFlag_pc : (s.writeResultFlag r b f).pc = s.pc := rfl
@[simp] theorem setReg_stack : (s.setReg r b).stack = s.stack := rfl
@[simp] theorem setFlag_stack : (s.setFlag f).stack = s.stack := rfl
@[simp] theorem writeResultFlag_stack : (s.writeResultFlag r b f).stack = s.stack := rfl
@[simp] theorem setReg_sp : (s.setReg r b).sp = s.sp := rfl
@[simp] theorem setFlag_sp : (s.setFlag f).sp = s.sp := rfl
@[simp] theorem writeResultFlag_sp : (s.writeResultFlag r b f).sp = s.sp := rfl
@[simp] theorem setReg_dt : (s.setReg r b).dt = s.dt := rfl
@[simp] theorem setFlag_dt : (s.setFlag f).dt = s.dt := rfl
@[simp] theorem writeResultFlag_dt : (s.writeResultFlag r b f).dt = s.dt := rfl
@[simp] theorem setReg_st : (s.setReg r b).st = s.st := rfl
@[simp] theorem setFlag_st : (s.setFlag f).st = s.st := rfl
@[simp] theorem writeResultFlag_st : (s.writeResultFlag r b f).st = s.st := rfl
@[simp] theorem setReg_key : (s.setReg r b).key = s.key := rfl
@[simp] theorem setFlag_key : (s.setFlag f).key = s.key := rfl
@[simp] theorem writeResultFlag_key : (s.writeResultFlag r b f).key = s.key := rfl
@[simp] theorem setReg_paused : (s.setReg r b).paused = s.paused := rfl
@[simp] theorem setFlag_paused : (s.setFlag f).paused = s.paused := rfl
@[simp] theorem writeResultFlag_paused : (s.writeResultFlag r b f).paused = s.paused := rfl
@[simp] theorem setReg_grid : (s.setReg r b).grid = s.grid := rfl
@[simp] theorem setFlag_grid : (s.setFlag f).grid = s.grid := rfl
@[simp] theorem writeResultFlag_grid : (s.writeResultFlag r b f).grid = s.grid := rfl
@[simp] theorem setReg_result : (s.setReg r b).result = s.result := rfl
@[simp] theorem setFlag_result : (s.setFlag f).result = s.result := rfl
@[simp] theorem writeResultFlag_result : (s.writeResultFlag r b f).result = s.result := rfl
@[simp] theorem setReg_drawReq : (s.setReg r b).drawReq = s.drawReq := rfl
@[simp] theorem setFlag_drawReq : (s.setFlag f).drawReq = s.drawReq := rfl
@[simp] theorem writeResultFlag_drawReq : (s.writeResultFlag r b f).drawReq = s.drawReq := rfl
@[simp] theorem setReg_reports : (s.setReg r b).reports = s.reports := rfl
@[simp] theorem setFlag_reports : (s.setFlag f).reports = s.reports := rfl
@[simp] theorem writeResultFlag_reports : (s.writeResultFlag r b f).reports = s.reports := rfl
@[simp] theorem setReg_randIn : (s.setReg r b).randIn = s.randIn := rfl
@[simp] theorem setFlag_randIn : (s.setFlag f).randIn = s.randIn := rfl
@[simp] theorem writeResultFlag_randIn : (s.writeResultFlag r b f).randIn = s.randIn := rfl
@[simp] theorem setReg_randCount : (s.setReg r b).randCount = s.randCount := rfl
@[simp] theorem setFlag_randCount : (s.setFlag f).randCount = s.randCount := rfl
@[simp] theorem writeResultFlag_randCount : (s.writeResultFlag r b f).randCount = s.randCount := rfl
@[simp] theorem advance_mem : s.advance.mem = s.mem := rfl
@[simp] theorem skipIf_mem : (s.skipIf c).mem = s.mem := by cases c <;> rfl
@[simp] theorem advance_x : s.advance.x = s.x := rfl
@[simp] theorem skipIf_x : (s.skipIf c).x = s.x := by cases c <;> rfl
@[simp] theorem advance_I : s.advance.I = s.I := rfl
@[simp] theorem skipIf_I : (s.skipIf c).I = s.I := by cases c <;> rfl
@[simp] theorem advance_pc : s.advance.pc = s.pc + 2 := rfl
@[simp] theorem skip_pc : s.skip.pc = s.pc + 4 := rfl
@[simp] theorem skipIf_pc : (s.skipIf c).pc = if c then s.pc + 4 else s.pc + 2 := by cases c <;> rfl
@[simp] theorem advance_stack : s.advance.stack = s.stack := rfl
@[simp] theorem skipIf_stack : (s.skipIf c).stack = s.stack := by cases c <;> rfl
@[simp] theorem advance_sp : s.advance.sp = s.sp := rfl
@[simp] theorem skipIf_sp : (s.skipIf c).sp = s.sp := by cases c <;> rfl
@[simp] theorem advance_dt : s.advance.dt = s.dt := rfl
@[simp] theorem skipIf_dt : (s.skipIf c).dt = s.dt := by cases c <;> rfl
@[simp] theorem advance_st : s.advance.st = s.st := rfl
@[simp] theorem skipIf_st : (s.skipIf c).st = s.st := by cases c <;> rfl
@[simp] theorem advance_key : s.advance.key = s.key := rfl
@[simp] theorem skipIf_key : (s.skipIf c).key = s.key := by cases c <;> rfl
@[simp] theorem advance_paused : s.advance.paused = s.paused := rfl
@[simp] theorem skipIf_paused : (s.skipIf c).paused = s.paused := by cases c <;> rfl
@[simp] theorem advance_grid : s.advance.grid = s.grid := rfl
@[simp] theorem skipIf_grid : (s.skipIf c).grid = s.grid := by cases c <;> rfl
@[simp] theorem advance_result : s.advance.result = s.result := rfl
@[simp] theorem skipIf_result : (s.skipIf c).result = s.result := by cases c <;> rfl
@[simp] theorem advance_drawReq : s.advance.drawReq = s.drawReq := rfl
@[simp] theorem skipIf_drawReq : (s.skipIf c).drawReq = s.drawReq := by cases c <;> rfl
@[simp] theorem advance_reports : s.advance.reports = s.reports := rfl
@[simp] theorem skipIf_reports : (s.skipIf c).reports = s.reports := by cases c <;> rfl
@[simp] theorem advance_randIn : s.advance.randIn = s.randIn := rfl
@[simp] theorem skipIf_randIn : (s.skipIf c).randIn = s.randIn := by cases c <;> rfl
@[simp] theorem advance_randCount : s.advance.randCount = s.randCount := rfl
@[simp] theorem skipIf_randCount : (s.skipIf c).randCount = s.randCount := by cases c <;> rfl

end Sys2Proof.Machine.State
end

