-- ==== Sys2Proof/Laws/Ops.lean ====
section
/-! SUPPORT. The shared operations: push and pop, reports, fetch, the timer pass and the two ends of a tick. Each lemma
says once everything its operation does. -/

namespace Sys2Proof.Machine

/-! ## The call stack -/

/-- A push fails exactly at `SP = STACK_DEPTH`. -/
theorem State.push_eq_none {s : State} {v : Word} : s.push v = none ↔ s.sp.val = Config.stackDepth := by
  have := s.sp.isLt
  unfold State.push
  split <;> simp_all
  all_goals omega

/-- All that a successful push does. -/
theorem State.push_eq_some {s t : State} {v : Word} :
    s.push v = some t ↔ ∃ h : s.sp.val < Config.stackDepth,
      t = (s.setStack (s.stack.set s.sp.val v h)).setSp ⟨s.sp.val + 1, Nat.succ_lt_succ h⟩ := by
  unfold State.push
  split <;> simp_all [eq_comm]

/-- A pop fails exactly at `SP = 0`. -/
theorem State.pop_eq_none {s : State} : s.pop = none ↔ s.sp.val = 0 := by
  unfold State.pop
  split <;> simp_all

/-- All that a successful pop does. -/
theorem State.pop_eq_some {s t : State} {v : Word} :
    s.pop = some (v, t) ↔ ∃ (k : Fin Config.stackDepth), k.val + 1 = s.sp.val ∧ v = s.stack[k] ∧ t = s.setSp k.castSucc := by
  unfold State.pop
  split
  case isTrue h => simp [h]
  case isFalse h =>
    constructor
    · intro he
      simp only [Option.some.injEq, Prod.mk.injEq] at he
      have := s.sp.isLt
      exact ⟨⟨s.sp.val - 1, by omega⟩, by simp only; omega, he.1.symm, he.2.symm⟩
    · rintro ⟨k, hk, rfl, rfl⟩
      have : s.sp.val - 1 = k.val := by omega
      simp [this, Fin.castSucc, Fin.castAdd, Fin.castLE]

/-- A push below the depth. -/
theorem State.push_of_lt (s : State) (v : Word) (h : s.sp.val < Config.stackDepth) :
    s.push v = some ((s.setStack (s.stack.set s.sp.val v h)).setSp ⟨s.sp.val + 1, Nat.succ_lt_succ h⟩) :=
  State.push_eq_some.2 ⟨h, rfl⟩

/-- A push at the depth. -/
theorem State.push_of_full (s : State) (v : Word) (h : s.sp.val = Config.stackDepth) : s.push v = none :=
  State.push_eq_none.2 h

/-- A pop of the entry `k`, the most recent one. -/
theorem State.pop_of_succ (s : State) (k : Fin Config.stackDepth) (h : s.sp.val = k.val + 1) :
    s.pop = some (s.stack[k], s.setSp k.castSucc) :=
  State.pop_eq_some.2 ⟨k, h.symm, rfl, rfl⟩

/-- A pop of an empty stack. -/
theorem State.pop_of_zero (s : State) (h : s.sp.val = 0) : s.pop = none := State.pop_eq_none.2 h

/-- SP is 0, or one more than the place of the most recent entry. -/
theorem State.sp_cases (s : State) : s.sp.val = 0 ∨ ∃ k : Fin Config.stackDepth, s.sp.val = k.val + 1 := by
  have h : s.sp.val < 16 + 1 := s.sp.isLt
  by_cases h0 : s.sp.val = 0
  · exact .inl h0
  · exact .inr ⟨⟨s.sp.val - 1, by show _ < 16; omega⟩, by simp only; omega⟩

/-- SP is at the depth or below it. -/
theorem State.sp_full_or_lt (s : State) : s.sp.val = Config.stackDepth ∨ s.sp.val < Config.stackDepth := by
  have h : s.sp.val < 16 + 1 := s.sp.isLt
  show s.sp.val = 16 ∨ s.sp.val < 16
  omega

/-! ## Reports -/

variable (s : State) (r : Report)

@[simp] theorem State.raise_pc : (s.raise r).pc = pcAfterReport r s.pc := rfl
@[simp] theorem State.raise_result : (s.raise r).result = .report r := rfl
@[simp] theorem State.raise_reports : (s.raise r).reports = s.reports ++ [r] := rfl
@[simp] theorem State.raise_mem : (s.raise r).mem = s.mem := rfl
@[simp] theorem State.raise_x : (s.raise r).x = s.x := rfl
@[simp] theorem State.raise_I : (s.raise r).I = s.I := rfl
@[simp] theorem State.raise_stack : (s.raise r).stack = s.stack := rfl
@[simp] theorem State.raise_sp : (s.raise r).sp = s.sp := rfl
@[simp] theorem State.raise_dt : (s.raise r).dt = s.dt := rfl
@[simp] theorem State.raise_st : (s.raise r).st = s.st := rfl
@[simp] theorem State.raise_key : (s.raise r).key = s.key := rfl
@[simp] theorem State.raise_paused : (s.raise r).paused = s.paused := rfl
@[simp] theorem State.raise_grid : (s.raise r).grid = s.grid := rfl
@[simp] theorem State.raise_drawReq : (s.raise r).drawReq = s.drawReq := rfl
@[simp] theorem State.raise_randIn : (s.raise r).randIn = s.randIn := rfl
@[simp] theorem State.raise_randCount : (s.raise r).randCount = s.randCount := rfl
@[simp] theorem State.reg_raise (q : RegIdx) : (s.raise r).reg q = s.reg q := rfl

/-! ## The tick -/

/-- A fetch succeeds exactly when its two bytes are inside memory. -/
theorem State.fetch_eq : s.fetch = if s.pc.toNat + 2 ≤ Config.memSize then some s.fetchedWord else none := by
  simp [State.fetch, inRange]

/-- Fetch sees through the beginning of a tick. -/
@[simp] theorem State.fetch_beginTick : s.beginTick.fetch = s.fetch := rfl

@[simp] theorem State.fetchedWord_beginTick : s.beginTick.fetchedWord = s.fetchedWord := rfl
@[simp] theorem State.beginTick_pc : s.beginTick.pc = s.pc := rfl
@[simp] theorem State.beginTick_mem : s.beginTick.mem = s.mem := rfl
@[simp] theorem State.beginTick_x : s.beginTick.x = s.x := rfl
@[simp] theorem State.beginTick_I : s.beginTick.I = s.I := rfl
@[simp] theorem State.beginTick_stack : s.beginTick.stack = s.stack := rfl
@[simp] theorem State.beginTick_sp : s.beginTick.sp = s.sp := rfl
@[simp] theorem State.beginTick_dt : s.beginTick.dt = s.dt := rfl
@[simp] theorem State.beginTick_st : s.beginTick.st = s.st := rfl
@[simp] theorem State.beginTick_key : s.beginTick.key = s.key := rfl
@[simp] theorem State.beginTick_paused : s.beginTick.paused = s.paused := rfl
@[simp] theorem State.beginTick_grid : s.beginTick.grid = s.grid := rfl
@[simp] theorem State.beginTick_reports : s.beginTick.reports = s.reports := rfl
@[simp] theorem State.beginTick_randIn : s.beginTick.randIn = s.randIn := rfl
@[simp] theorem State.beginTick_randCount : s.beginTick.randCount = s.randCount := rfl
@[simp] theorem State.beginTick_result : s.beginTick.result = .ok := rfl
@[simp] theorem State.beginTick_drawReq : s.beginTick.drawReq = false := rfl
@[simp] theorem State.reg_beginTick (q : RegIdx) : s.beginTick.reg q = s.reg q := rfl

/-- The timer pass on DT. -/
@[simp] theorem State.endTick_dt : s.endTick.dt = if s.paused then s.dt else countDown s.dt := by
  unfold State.endTick State.timerPass; split <;> rfl

/-- The timer pass on ST. -/
@[simp] theorem State.endTick_st : s.endTick.st = if s.paused then s.st else countDown s.st := by
  unfold State.endTick State.timerPass; split <;> rfl

@[simp] theorem State.endTick_randIn : s.endTick.randIn = none := rfl
@[simp] theorem State.endTick_mem : s.endTick.mem = s.mem := by unfold State.endTick State.timerPass; split <;> rfl
@[simp] theorem State.endTick_x : s.endTick.x = s.x := by unfold State.endTick State.timerPass; split <;> rfl
@[simp] theorem State.endTick_I : s.endTick.I = s.I := by unfold State.endTick State.timerPass; split <;> rfl
@[simp] theorem State.endTick_pc : s.endTick.pc = s.pc := by unfold State.endTick State.timerPass; split <;> rfl
@[simp] theorem State.endTick_stack : s.endTick.stack = s.stack := by unfold State.endTick State.timerPass; split <;> rfl
@[simp] theorem State.endTick_sp : s.endTick.sp = s.sp := by unfold State.endTick State.timerPass; split <;> rfl
@[simp] theorem State.endTick_key : s.endTick.key = s.key := by unfold State.endTick State.timerPass; split <;> rfl
@[simp] theorem State.endTick_paused : s.endTick.paused = s.paused := by
  unfold State.endTick State.timerPass; split <;> rfl
@[simp] theorem State.endTick_grid : s.endTick.grid = s.grid := by unfold State.endTick State.timerPass; split <;> rfl
@[simp] theorem State.endTick_result : s.endTick.result = s.result := by
  unfold State.endTick State.timerPass; split <;> rfl
@[simp] theorem State.endTick_drawReq : s.endTick.drawReq = s.drawReq := by
  unfold State.endTick State.timerPass; split <;> rfl
@[simp] theorem State.endTick_reports : s.endTick.reports = s.reports := by
  unfold State.endTick State.timerPass; split <;> rfl
@[simp] theorem State.endTick_randCount : s.endTick.randCount = s.randCount := by
  unfold State.endTick State.timerPass; split <;> rfl
@[simp] theorem State.reg_endTick (q : RegIdx) : s.endTick.reg q = s.reg q := by
  unfold State.endTick State.timerPass; split <;> rfl

/-- A next state through `mapNext` comes from a next state. -/
theorem mapNext_eq_next {f : State → State} {o : Out} {t : State} :
    mapNext f o = .next t ↔ ∃ u, o = .next u ∧ t = f u := by
  cases o <;> simp [mapNext, eq_comm]

/-- The three ways a tick can go (40_tick.md R132): the fetch is out of range, the word selects no operation, or its
operation is executed. -/
theorem tick_cases :
    (Config.memSize < s.pc.toNat + 2 ∧
      tick s = .next (s.beginTick.raise (.memoryOutOfRange .fetch s.pc)).endTick) ∨
    (s.pc.toNat + 2 ≤ Config.memSize ∧ decodeWord s.fetchedWord = none ∧
      tick s = .next (s.beginTick.raise (.undefinedOpcode s.fetchedWord s.pc)).endTick) ∨
    (s.pc.toNat + 2 ≤ Config.memSize ∧ ∃ i, decodeWord s.fetchedWord = some i ∧
      tick s = mapNext State.endTick (exec i s.beginTick)) := by
  by_cases h : s.pc.toNat + 2 ≤ Config.memSize
  · have hf : s.fetch = some s.fetchedWord := by rw [State.fetch_eq, if_pos h]
    cases hd : decodeWord s.fetchedWord with
    | none => exact .inr (.inl ⟨h, rfl, by simp [tick, hf, runFetched, hd, mapNext]⟩)
    | some i => exact .inr (.inr ⟨h, i, rfl, by simp [tick, hf, runFetched, hd]⟩)
  · have hf : s.fetch = none := by rw [State.fetch_eq, if_neg h]
    exact .inl ⟨by omega, by simp [tick, hf, runFetched, mapNext]⟩

end Sys2Proof.Machine
end

