-- ==== Sys2Proof/Laws/Parts.lean ====
section
/-! SUPPORT. What each update changes, part by part, and how such frames are joined. -/

namespace Sys2Proof.Machine

@[simp] theorem Part.same_self (s : State) (p : Part) : p.same s s := by cases p <;> rfl

/-- Sameness of a part passes through a middle state. -/
theorem Part.same_trans {s t u : State} {p : Part} (h : p.same s t) (h' : p.same t u) : p.same s u := by
  cases p <;> exact Eq.trans h' h

/-- Nothing changes from a state to itself. -/
theorem OnlyChanges.refl (s : State) (w : Part → Prop) : OnlyChanges s s w := fun p _ => p.same_self s

/-- Two frames in a row with the same written parts. -/
theorem OnlyChanges.trans {s t u : State} {w : Part → Prop} (h : OnlyChanges s t w) (h' : OnlyChanges t u w) :
    OnlyChanges s u w := fun p hp => Part.same_trans (h p hp) (h' p hp)

/-- A frame holds for any larger set of written parts. -/
theorem OnlyChanges.mono {s t : State} {w w' : Part → Prop} (h : OnlyChanges s t w) (hw : ∀ p, w p → w' p) :
    OnlyChanges s t w' := fun p hp => h p fun hq => hp (hw p hq)

variable {w : Part → Prop} (s : State)

theorem onlyChanges_setI (v) (h : w .I) : OnlyChanges s (s.setI v) w := by
  intro p hp; cases p <;> first | rfl | exact absurd h hp
theorem onlyChanges_setPc (v) (h : w .pc) : OnlyChanges s (s.setPc v) w := by
  intro p hp; cases p <;> first | rfl | exact absurd h hp
theorem onlyChanges_setSp (v) (h : w .sp) : OnlyChanges s (s.setSp v) w := by
  intro p hp; cases p <;> first | rfl | exact absurd h hp
theorem onlyChanges_setDt (v) (h : w .dt) : OnlyChanges s (s.setDt v) w := by
  intro p hp; cases p <;> first | rfl | exact absurd h hp
theorem onlyChanges_setSt (v) (h : w .st) : OnlyChanges s (s.setSt v) w := by
  intro p hp; cases p <;> first | rfl | exact absurd h hp
theorem onlyChanges_setKey (v) (h : w .key) : OnlyChanges s (s.setKey v) w := by
  intro p hp; cases p <;> first | rfl | exact absurd h hp
theorem onlyChanges_setPaused (v) (h : w .paused) : OnlyChanges s (s.setPaused v) w := by
  intro p hp; cases p <;> first | rfl | exact absurd h hp
theorem onlyChanges_setResult (v) (h : w .result) : OnlyChanges s (s.setResult v) w := by
  intro p hp; cases p <;> first | rfl | exact absurd h hp
theorem onlyChanges_setDrawReq (v) (h : w .drawReq) : OnlyChanges s (s.setDrawReq v) w := by
  intro p hp; cases p <;> first | rfl | exact absurd h hp
theorem onlyChanges_setReports (v) (h : w .reports) : OnlyChanges s (s.setReports v) w := by
  intro p hp; cases p <;> first | rfl | exact absurd h hp
theorem onlyChanges_setRandIn (v) (h : w .randIn) : OnlyChanges s (s.setRandIn v) w := by
  intro p hp; cases p <;> first | rfl | exact absurd h hp
theorem onlyChanges_setRandCount (v) (h : w .randCount) : OnlyChanges s (s.setRandCount v) w := by
  intro p hp; cases p <;> first | rfl | exact absurd h hp

/-- A register write changes that register. -/
theorem onlyChanges_setReg (r : RegIdx) (b : Byte) (h : w (.reg r)) : OnlyChanges s (s.setReg r b) w := by
  intro p hp
  cases p with
  | reg q =>
    have hne : q ≠ r := by rintro rfl; exact hp h
    simp [Part.same, hne]
  | _ => rfl

/-- A flag write changes VF. -/
theorem onlyChanges_setFlag (f : Bool) (h : w (.reg Config.flagReg)) : OnlyChanges s (s.setFlag f) w :=
  onlyChanges_setReg s _ _ h

/-- The result and flag write changes the destination and VF. -/
theorem onlyChanges_writeResultFlag (r : RegIdx) (b : Byte) (f : Bool) (h : w (.reg r)) (hf : w (.reg Config.flagReg)) :
    OnlyChanges s (s.writeResultFlag r b f) w :=
  (onlyChanges_setReg s r b h).trans (onlyChanges_setFlag _ f hf)

/-- Advancing changes the pc. -/
theorem onlyChanges_advance (h : w .pc) : OnlyChanges s s.advance w := onlyChanges_setPc s _ h

/-- A conditional skip changes the pc. -/
theorem onlyChanges_skipIf (c : Bool) (h : w .pc) : OnlyChanges s (s.skipIf c) w := by
  cases c <;> exact onlyChanges_setPc s _ h

/-- A new memory changes the bytes that read differently. -/
theorem onlyChanges_setMem (m : Memory) (h : ∀ a, ¬ w (.memByte a) → m.read a = s.mem.read a) :
    OnlyChanges s (s.setMem m) w := by
  intro p hp
  cases p with
  | memByte a => exact h a hp
  | _ => rfl

/-- A new grid changes the pixels that read differently. -/
theorem onlyChanges_setGrid (g : Grid) (h : ∀ r c, ¬ w (.pixel r c) → g.cell r c = s.grid.cell r c) :
    OnlyChanges s (s.setGrid g) w := by
  intro p hp
  cases p with
  | pixel r c => exact h r c hp
  | _ => rfl

/-- A new stack array changes the entries that read differently. -/
theorem onlyChanges_setStack (v : Vector Word Config.stackDepth)
    (h : ∀ k : Fin Config.stackDepth, ¬ w (.stackEntry k) → v[k] = s.stack[k]) : OnlyChanges s (s.setStack v) w := by
  intro p hp
  cases p with
  | stackEntry k => exact h k hp
  | _ => rfl

/-- Writing a run of registers `x[k]`, `x[k+1]`, ... of at most 16 in all changes those registers. -/
theorem onlyChanges_setRegsFrom (k : Nat) (bs : List Byte)
    (h : ∀ i, i < bs.length → w (.reg (BitVec.ofNat 4 (k + i)))) : OnlyChanges s (s.setRegsFrom k bs) w := by
  induction bs generalizing s k with
  | nil => exact OnlyChanges.refl s w
  | cons b bs ih =>
    refine (onlyChanges_setReg s _ b (by simpa using h 0 (by simp))).trans (ih _ (k + 1) fun i hi => ?_)
    have := h (i + 1) (by simpa using hi)
    rwa [Nat.add_assoc, Nat.add_comm 1 i]

/-- A report changes the pc (of `UndefinedOpcode` alone), the tick's result and the record. -/
theorem onlyChanges_raise (r : Report) (h : w .pc) (h' : w .result) (h'' : w .reports) :
    OnlyChanges s (s.raise r) w :=
  ((onlyChanges_setPc s _ h).trans (onlyChanges_setResult _ _ h')).trans (onlyChanges_setReports _ _ h'')

/-- The timer pass changes the timers. -/
theorem onlyChanges_timerPass (h : w .dt) (h' : w .st) : OnlyChanges s s.timerPass w := by
  unfold State.timerPass
  split
  · exact OnlyChanges.refl s w
  · exact (onlyChanges_setDt s _ h).trans (onlyChanges_setSt _ _ h')

/-- The end of a tick changes the timers and takes the presented random byte away. -/
theorem onlyChanges_endTick (h : w .dt) (h' : w .st) (h'' : w .randIn) : OnlyChanges s s.endTick w :=
  (onlyChanges_timerPass s h h').trans (onlyChanges_setRandIn _ _ h'')

/-- The beginning of a tick changes its two outputs. -/
theorem onlyChanges_beginTick (h : w .result) (h' : w .drawReq) : OnlyChanges s s.beginTick w :=
  (onlyChanges_setResult s _ h).trans (onlyChanges_setDrawReq _ _ h')

/-! The frames of the common shapes of instruction. -/

/-- A register write and the advance. -/
theorem onlyChanges_setReg_advance (x : RegIdx) (b : Byte) : OnlyChanges s (s.setReg x b).advance (writesReg x) :=
  (onlyChanges_setReg s x b (.inl rfl)).trans (onlyChanges_advance _ (.inr rfl))

/-- A result, its flag and the advance. -/
theorem onlyChanges_writeResultFlag_advance (x : RegIdx) (b : Byte) (f : Bool) :
    OnlyChanges s (s.writeResultFlag x b f).advance (writesRegFlag x) :=
  (onlyChanges_writeResultFlag s x b f (.inl rfl) (.inr (.inl rfl))).trans (onlyChanges_advance _ (.inr (.inr rfl)))

/-- A report that leaves pc: its result and its record alone. -/
theorem onlyChanges_raise_of_pc (r : Report) (h : pcAfterReport r s.pc = s.pc) :
    OnlyChanges s (s.raise r) fun p => p = .result ∨ p = .reports := by
  intro p hp
  cases p <;> first | rfl | exact h | simp at hp

/-- A tick that does nothing but report changes pc (of `UndefinedOpcode` alone), the record and what every tick may. -/
theorem onlyChanges_reportTick (r : Report) :
    OnlyChanges s (s.beginTick.raise r).endTick fun p => p = .pc ∨ p = .reports ∨ writesAroundExec p :=
  (onlyChanges_beginTick s (by simp [writesAroundExec]) (by simp [writesAroundExec])).trans
    ((onlyChanges_raise _ r (.inl rfl) (by simp [writesAroundExec]) (.inr (.inl rfl))).trans
      (onlyChanges_endTick _ (by simp [writesAroundExec]) (by simp [writesAroundExec]) (by simp [writesAroundExec])))

end Sys2Proof.Machine
end

