-- ==== Sys2Proof/Laws/Exec.lean ====
section
/-! SUPPORT. What the branching meanings answer in each of their cases; the others answer one next state by definition.
After them, the jump targets and what stored bytes fetch as. -/

namespace Sys2Proof.Machine

variable (s : State)

/-- CALL below the depth. -/
theorem exec_call_of_lt (nnn : Addr12) (h : s.sp.val < Config.stackDepth) : exec (.call nnn) s =
    .next (((s.setStack (s.stack.set s.sp.val s.pc h)).setSp ⟨s.sp.val + 1, Nat.succ_lt_succ h⟩).setPc (addrOf nnn)) := by
  simp only [exec, execCall, State.push_of_lt s s.pc h]

/-- CALL at the depth. -/
theorem exec_call_of_full (nnn : Addr12) (h : s.sp.val = Config.stackDepth) :
    exec (.call nnn) s = .next (s.raise (.stackOverflow s.pc)) := by
  simp only [exec, execCall, State.push_of_full s s.pc h]

/-- RET of the entry `k`, the most recent one. -/
theorem exec_ret_of_succ (k : Fin Config.stackDepth) (h : s.sp.val = k.val + 1) :
    exec .ret s = .next ((s.setSp k.castSucc).setPc (s.stack[k] + 2)) := by
  simp only [exec, execRet, State.pop_of_succ s k h]

/-- RET with an empty stack. -/
theorem exec_ret_of_zero (h : s.sp.val = 0) : exec .ret s = .next (s.raise (.stackUnderflow s.pc)) := by
  simp only [exec, execRet, State.pop_of_zero s h]

/-- Storing at `I` in range. -/
theorem State.storeAtI_of_le (bytes : List Byte) (h : s.I.toNat + bytes.length ≤ Config.memSize) :
    s.storeAtI bytes = (s.setMem (s.mem.writeBytes s.I.toNat bytes)).advance := by
  simp [State.storeAtI, State.dataInRange, inRange, h, State.dataAddr]

/-- Storing at `I` out of range. -/
theorem State.storeAtI_of_lt (bytes : List Byte) (h : Config.memSize < s.I.toNat + bytes.length) :
    s.storeAtI bytes = s.raise (.memoryOutOfRange .data s.I) := by
  simp [State.storeAtI, State.dataInRange, inRange, Nat.not_le.2 h]

/-- LD Vx,[I] in range. -/
theorem exec_ldVxMem_of_le (x : RegIdx) (h : s.I.toNat + rangeCount x ≤ Config.memSize) : exec (.ldVxMem x) s =
    .next (s.setRegsFrom 0 (s.mem.readBytes s.I.toNat (rangeCount x))).advance := by
  simp [exec, execLdVxMem, State.dataInRange, inRange, h, State.dataAddr]

/-- LD Vx,[I] out of range. -/
theorem exec_ldVxMem_of_lt (x : RegIdx) (h : Config.memSize < s.I.toNat + rangeCount x) :
    exec (.ldVxMem x) s = .next (s.raise (.memoryOutOfRange .data s.I)) := by
  simp [exec, execLdVxMem, State.dataInRange, inRange, Nat.not_le.2 h]

/-- LD Vx,K with no key held. -/
theorem exec_ldVxK_of_none (x : RegIdx) (h : s.key = none) : exec (.ldVxK x) s = .next s := by
  simp [exec, execLdVxK, h]

/-- LD Vx,K with the key `k` held. -/
theorem exec_ldVxK_of_some (x : RegIdx) (k : Nibble) (h : s.key = some k) :
    exec (.ldVxK x) s = .next (s.setReg x (k.setWidth 8)).advance := by
  simp [exec, execLdVxK, h]

/-- The register range has X + 1 bytes. -/
@[simp] theorem State.length_regRange (x : RegIdx) : (s.regRange x).length = x.toNat + 1 := by
  simp [State.regRange, rangeCount]

/-- The register range holds `x[k]` at place `k`. -/
@[simp] theorem State.getElem_regRange (x : RegIdx) (k : Nat) (h : k < (s.regRange x).length) :
    (s.regRange x)[k] = s.reg (BitVec.ofNat 4 k) := by
  simp [State.regRange]

/-- LD B,Vx in range. -/
theorem exec_ldB_of_le (x : RegIdx) (h : s.I.toNat + 3 ≤ Config.memSize) :
    exec (.ldB x) s = .next (s.setMem (s.mem.writeBytes s.I.toNat (bcdDigits (s.reg x)))).advance :=
  congrArg Host.Outcome.next (s.storeAtI_of_le _ h)

/-- LD B,Vx out of range. -/
theorem exec_ldB_of_lt (x : RegIdx) (h : Config.memSize < s.I.toNat + 3) :
    exec (.ldB x) s = .next (s.raise (.memoryOutOfRange .data s.I)) :=
  congrArg Host.Outcome.next (s.storeAtI_of_lt (bcdDigits (s.reg x)) h)

/-- LD [I],Vx in range. -/
theorem exec_ldMemVx_of_le (x : RegIdx) (h : s.I.toNat + rangeCount x ≤ Config.memSize) :
    exec (.ldMemVx x) s = .next (s.setMem (s.mem.writeBytes s.I.toNat (s.regRange x))).advance :=
  congrArg Host.Outcome.next (s.storeAtI_of_le _ (by rw [State.length_regRange]; exact h))

/-- LD [I],Vx out of range. -/
theorem exec_ldMemVx_of_lt (x : RegIdx) (h : Config.memSize < s.I.toNat + rangeCount x) :
    exec (.ldMemVx x) s = .next (s.raise (.memoryOutOfRange .data s.I)) :=
  congrArg Host.Outcome.next (s.storeAtI_of_lt _ (by rw [State.length_regRange]; exact h))

/-- A run of registers written from `x[k]` on: each holds its byte, every other what it held. -/
theorem State.reg_setRegsFrom (k : Nat) (bs : List Byte) (q : RegIdx) (h : k + bs.length ≤ 16) :
    (s.setRegsFrom k bs).reg q =
      if k ≤ q.toNat ∧ q.toNat < k + bs.length then bs.getD (q.toNat - k) 0 else s.reg q := by
  induction bs generalizing s k with
  | nil =>
    rw [if_neg (by simp)]
    rfl
  | cons b bs ih =>
    simp only [List.length_cons] at h ⊢
    have hk : (BitVec.ofNat 4 k).toNat = k := by simp; omega
    rw [State.setRegsFrom, ih _ _ (by omega), State.reg_setReg]
    by_cases hq : q.toNat = k
    · have hq' : q = BitVec.ofNat 4 k := BitVec.eq_of_toNat_eq (by rw [hq, hk])
      rw [if_neg (by omega), if_pos hq', if_pos (by omega), hq]
      simp
    · have hq' : q ≠ BitVec.ofNat 4 k := by rintro rfl; exact hq hk
      rw [if_neg hq']
      by_cases hin : k + 1 ≤ q.toNat ∧ q.toNat < k + 1 + bs.length
      · have he : q.toNat - k = (q.toNat - (k + 1)) + 1 := by omega
        rw [if_pos hin, if_pos (by omega), he, List.getD_cons_succ]
      · rw [if_neg hin, if_neg (by omega)]

/-! A run of registers written changes no other field. -/

variable (k : Nat) (bs : List Byte)

@[simp] theorem State.setRegsFrom_mem : (s.setRegsFrom k bs).mem = s.mem := by
  induction bs generalizing s k with
  | nil => rfl
  | cons b bs ih => exact ih _ _
@[simp] theorem State.setRegsFrom_I : (s.setRegsFrom k bs).I = s.I := by
  induction bs generalizing s k with
  | nil => rfl
  | cons b bs ih => exact ih _ _
@[simp] theorem State.setRegsFrom_pc : (s.setRegsFrom k bs).pc = s.pc := by
  induction bs generalizing s k with
  | nil => rfl
  | cons b bs ih => exact ih _ _
@[simp] theorem State.setRegsFrom_stack : (s.setRegsFrom k bs).stack = s.stack := by
  induction bs generalizing s k with
  | nil => rfl
  | cons b bs ih => exact ih _ _
@[simp] theorem State.setRegsFrom_sp : (s.setRegsFrom k bs).sp = s.sp := by
  induction bs generalizing s k with
  | nil => rfl
  | cons b bs ih => exact ih _ _
@[simp] theorem State.setRegsFrom_dt : (s.setRegsFrom k bs).dt = s.dt := by
  induction bs generalizing s k with
  | nil => rfl
  | cons b bs ih => exact ih _ _
@[simp] theorem State.setRegsFrom_st : (s.setRegsFrom k bs).st = s.st := by
  induction bs generalizing s k with
  | nil => rfl
  | cons b bs ih => exact ih _ _
@[simp] theorem State.setRegsFrom_key : (s.setRegsFrom k bs).key = s.key := by
  induction bs generalizing s k with
  | nil => rfl
  | cons b bs ih => exact ih _ _
@[simp] theorem State.setRegsFrom_paused : (s.setRegsFrom k bs).paused = s.paused := by
  induction bs generalizing s k with
  | nil => rfl
  | cons b bs ih => exact ih _ _
@[simp] theorem State.setRegsFrom_grid : (s.setRegsFrom k bs).grid = s.grid := by
  induction bs generalizing s k with
  | nil => rfl
  | cons b bs ih => exact ih _ _
@[simp] theorem State.setRegsFrom_result : (s.setRegsFrom k bs).result = s.result := by
  induction bs generalizing s k with
  | nil => rfl
  | cons b bs ih => exact ih _ _
@[simp] theorem State.setRegsFrom_drawReq : (s.setRegsFrom k bs).drawReq = s.drawReq := by
  induction bs generalizing s k with
  | nil => rfl
  | cons b bs ih => exact ih _ _
@[simp] theorem State.setRegsFrom_reports : (s.setRegsFrom k bs).reports = s.reports := by
  induction bs generalizing s k with
  | nil => rfl
  | cons b bs ih => exact ih _ _
@[simp] theorem State.setRegsFrom_randIn : (s.setRegsFrom k bs).randIn = s.randIn := by
  induction bs generalizing s k with
  | nil => rfl
  | cons b bs ih => exact ih _ _
@[simp] theorem State.setRegsFrom_randCount : (s.setRegsFrom k bs).randCount = s.randCount := by
  induction bs generalizing s k with
  | nil => rfl
  | cons b bs ih => exact ih _ _

/-- Every instruction completes: it raises one report and nothing else, or it raises none. -/
theorem exec_raises_or_not (i : Instr) : (∃ r, exec i s = .next (s.raise r)) ∨
    ∃ t, exec i s = .next t ∧ t.result = s.result ∧ t.reports = s.reports := by
  cases i
  case sys => exact .inl ⟨_, rfl⟩
  case ret =>
    rcases s.sp_cases with h | ⟨k, h⟩
    · exact .inl ⟨_, exec_ret_of_zero s h⟩
    · exact .inr ⟨_, exec_ret_of_succ s k h, rfl, rfl⟩
  case call =>
    rcases s.sp_full_or_lt with h | h
    · exact .inl ⟨_, exec_call_of_full s _ h⟩
    · exact .inr ⟨_, exec_call_of_lt s _ h, rfl, rfl⟩
  case ldVxK x =>
    cases h : s.key with
    | none => exact .inr ⟨_, exec_ldVxK_of_none s x h, rfl, rfl⟩
    | some k => exact .inr ⟨_, exec_ldVxK_of_some s x k h, rfl, rfl⟩
  case ldB x =>
    rcases Nat.lt_or_ge Config.memSize (s.I.toNat + 3) with h | h
    · exact .inl ⟨_, exec_ldB_of_lt s x h⟩
    · exact .inr ⟨_, exec_ldB_of_le s x h, rfl, rfl⟩
  case ldMemVx x =>
    rcases Nat.lt_or_ge Config.memSize (s.I.toNat + rangeCount x) with h | h
    · exact .inl ⟨_, exec_ldMemVx_of_lt s x h⟩
    · exact .inr ⟨_, exec_ldMemVx_of_le s x h, rfl, rfl⟩
  case ldVxMem x =>
    rcases Nat.lt_or_ge Config.memSize (s.I.toNat + rangeCount x) with h | h
    · exact .inl ⟨_, exec_ldVxMem_of_lt s x h⟩
    · exact .inr ⟨_, exec_ldVxMem_of_le s x h, by simp, by simp⟩
  case seImm => exact .inr ⟨_, rfl, by simp, by simp⟩
  case sneImm => exact .inr ⟨_, rfl, by simp, by simp⟩
  case seReg => exact .inr ⟨_, rfl, by simp, by simp⟩
  case sneReg => exact .inr ⟨_, rfl, by simp, by simp⟩
  case skp => exact .inr ⟨_, rfl, by simp, by simp⟩
  case sknp => exact .inr ⟨_, rfl, by simp, by simp⟩
  all_goals exact .inr ⟨_, rfl, rfl, rfl⟩

/-- The target of JP and CALL is NNN. -/
@[simp] theorem addrOf_toNat (nnn : Addr12) : (addrOf nnn).toNat = nnn.toNat := by
  simp [addrOf]; omega

/-- The target of JP V0 never wraps at 16 bits (41_control_transfer.md R149). -/
theorem addrOf_add_zext16_toNat (nnn : Addr12) (b : Byte) : (addrOf nnn + zext16 b).toNat = nnn.toNat + b.toNat := by
  simp [addrOf, zext16]; omega

/-- What a memory with bytes stored in it fetches. -/
theorem fetchesStored_of_writeBytes {s t : State} {a n : Nat} {bs : List Byte} {f : Nat → Byte} (hm : s.mem.wf)
    (ht : t.mem = s.mem.writeBytes a bs) (hn : bs.length = n) (hf : ∀ k, k < n → bs.getD k 0 = f k) :
    FetchesStored s t a n f := by
  intro u hu hp
  have hread : ∀ b, u.mem.read b = FetchesStored.byteAt s a n f b := by
    intro b
    rw [hu, ht, Memory.read_writeBytes _ hm.1, FetchesStored.byteAt, hn]
    split
    · exact hf _ (by omega)
    · rfl
  rw [State.fetch_eq, if_pos hp, State.fetchedWord, hread, hread]

end Sys2Proof.Machine
end

