-- ==== Sys2Proof/Laws/PerInstr.lean ====
section
/-! SUPPORT. The statements made for every instruction, one lemma per constructor. -/

namespace Sys2Proof.Laws.OpcodeRow

/-- The word of the instruction lies in its own row of the opcode map (spec/30_encoding.md R96): under the row's mask it
is the row's match. -/
def Statement (i : Instr) : Prop :=
  ∃ mask mat, opcodeRows[i.row]? = some (mask, mat) ∧ encode i &&& mask = mat

theorem cls : Statement (.cls) := ⟨_, _, rfl, rfl⟩
theorem ret : Statement (.ret) := ⟨_, _, rfl, rfl⟩
theorem sys (nnn : Addr12) : Statement (.sys nnn) := ⟨_, _, rfl, by simp only [encode, and_F000]; simp; rfl⟩
theorem jp (nnn : Addr12) : Statement (.jp nnn) := ⟨_, _, rfl, by simp only [encode, and_F000]; simp; rfl⟩
theorem call (nnn : Addr12) : Statement (.call nnn) := ⟨_, _, rfl, by simp only [encode, and_F000]; simp; rfl⟩
theorem seImm (x : RegIdx) (kk : Byte) : Statement (.seImm x kk) := ⟨_, _, rfl, by simp only [encode, and_F000]; simp; rfl⟩
theorem sneImm (x : RegIdx) (kk : Byte) : Statement (.sneImm x kk) := ⟨_, _, rfl, by simp only [encode, and_F000]; simp; rfl⟩
theorem seReg (x : RegIdx) (y : RegIdx) : Statement (.seReg x y) := ⟨_, _, rfl, by simp only [encode, and_F000]; simp; rfl⟩
theorem ldImm (x : RegIdx) (kk : Byte) : Statement (.ldImm x kk) := ⟨_, _, rfl, by simp only [encode, and_F000]; simp; rfl⟩
theorem addImm (x : RegIdx) (kk : Byte) : Statement (.addImm x kk) := ⟨_, _, rfl, by simp only [encode, and_F000]; simp; rfl⟩
theorem ldReg (x : RegIdx) (y : RegIdx) : Statement (.ldReg x y) := ⟨_, _, rfl, by simp only [encode, and_F00F]; simp; rfl⟩
theorem orReg (x : RegIdx) (y : RegIdx) : Statement (.orReg x y) := ⟨_, _, rfl, by simp only [encode, and_F00F]; simp; rfl⟩
theorem andReg (x : RegIdx) (y : RegIdx) : Statement (.andReg x y) := ⟨_, _, rfl, by simp only [encode, and_F00F]; simp; rfl⟩
theorem xorReg (x : RegIdx) (y : RegIdx) : Statement (.xorReg x y) := ⟨_, _, rfl, by simp only [encode, and_F00F]; simp; rfl⟩
theorem addReg (x : RegIdx) (y : RegIdx) : Statement (.addReg x y) := ⟨_, _, rfl, by simp only [encode, and_F00F]; simp; rfl⟩
theorem subReg (x : RegIdx) (y : RegIdx) : Statement (.subReg x y) := ⟨_, _, rfl, by simp only [encode, and_F00F]; simp; rfl⟩
theorem shr (x : RegIdx) (y : RegIdx) : Statement (.shr x y) := ⟨_, _, rfl, by simp only [encode, and_F00F]; simp; rfl⟩
theorem subnReg (x : RegIdx) (y : RegIdx) : Statement (.subnReg x y) := ⟨_, _, rfl, by simp only [encode, and_F00F]; simp; rfl⟩
theorem shl (x : RegIdx) (y : RegIdx) : Statement (.shl x y) := ⟨_, _, rfl, by simp only [encode, and_F00F]; simp; rfl⟩
theorem sneReg (x : RegIdx) (y : RegIdx) : Statement (.sneReg x y) := ⟨_, _, rfl, by simp only [encode, and_F000]; simp; rfl⟩
theorem ldI (nnn : Addr12) : Statement (.ldI nnn) := ⟨_, _, rfl, by simp only [encode, and_F000]; simp; rfl⟩
theorem jpV0 (nnn : Addr12) : Statement (.jpV0 nnn) := ⟨_, _, rfl, by simp only [encode, and_F000]; simp; rfl⟩
theorem rnd (x : RegIdx) (kk : Byte) : Statement (.rnd x kk) := ⟨_, _, rfl, by simp only [encode, and_F000]; simp; rfl⟩
theorem drw (x : RegIdx) (y : RegIdx) (n : Nibble) : Statement (.drw x y n) := ⟨_, _, rfl, by simp only [encode, and_F000]; simp; rfl⟩
theorem skp (x : RegIdx) : Statement (.skp x) := ⟨_, _, rfl, by simp only [encode, and_F0FF]; simp; rfl⟩
theorem sknp (x : RegIdx) : Statement (.sknp x) := ⟨_, _, rfl, by simp only [encode, and_F0FF]; simp; rfl⟩
theorem ldVxDt (x : RegIdx) : Statement (.ldVxDt x) := ⟨_, _, rfl, by simp only [encode, and_F0FF]; simp; rfl⟩
theorem ldVxK (x : RegIdx) : Statement (.ldVxK x) := ⟨_, _, rfl, by simp only [encode, and_F0FF]; simp; rfl⟩
theorem ldDtVx (x : RegIdx) : Statement (.ldDtVx x) := ⟨_, _, rfl, by simp only [encode, and_F0FF]; simp; rfl⟩
theorem ldStVx (x : RegIdx) : Statement (.ldStVx x) := ⟨_, _, rfl, by simp only [encode, and_F0FF]; simp; rfl⟩
theorem addI (x : RegIdx) : Statement (.addI x) := ⟨_, _, rfl, by simp only [encode, and_F0FF]; simp; rfl⟩
theorem ldF (x : RegIdx) : Statement (.ldF x) := ⟨_, _, rfl, by simp only [encode, and_F0FF]; simp; rfl⟩
theorem ldB (x : RegIdx) : Statement (.ldB x) := ⟨_, _, rfl, by simp only [encode, and_F0FF]; simp; rfl⟩
theorem ldMemVx (x : RegIdx) : Statement (.ldMemVx x) := ⟨_, _, rfl, by simp only [encode, and_F0FF]; simp; rfl⟩
theorem ldVxMem (x : RegIdx) : Statement (.ldVxMem x) := ⟨_, _, rfl, by simp only [encode, and_F0FF]; simp; rfl⟩

end Sys2Proof.Laws.OpcodeRow
end

