-- ==== Sys2Proof/Tests/Slice0.lean ====
section
/-! SUPPORT. The model's own tests: the WellFormed smoke, one word per operation written out from spec/30_encoding.md
R96, single ticks from spec/95_test_vectors.md (each theorem names its vectors), and a witness for the hypotheses of
each obligation that has some. -/

namespace Sys2Proof.Tests

open Sys2Proof Sys2Proof.Machine

/-! ## WellFormed -/

/-- 0x00E0 and 0x00EE are CLS and RET, no SYS (30_encoding.md R96, R99). -/
theorem test_wellFormed_refuses_sys_0E0 : (Instr.sys 0x0E0).wellFormed = false := by decide
theorem test_wellFormed_refuses_sys_0EE : (Instr.sys 0x0EE).wellFormed = false := by decide
theorem test_wellFormed_admits_the_others : (Instr.sys 0x0E1).wellFormed = true ∧ Instr.cls.wellFormed = true := by decide

/-! ## Decoding: words written out from the patterns of 30_encoding.md R96, one family in binary each -/

theorem test_decode_class0 : decodeWord 0b0000000011100000 = some .cls ∧ decodeWord 0b0000000011101110 = some .ret ∧
    decodeWord 0b0000000100100011 = some (.sys 0x123) ∧ decodeWord 0x0000 = some (.sys 0x000) := by decide
theorem test_decode_jumps : decodeWord 0b0001101010111100 = some (.jp 0xABC) ∧ decodeWord 0x2ABC = some (.call 0xABC) ∧
    decodeWord 0xB2FE = some (.jpV0 0x2FE) := by decide
theorem test_decode_skips : decodeWord 0b0011000000010010 = some (.seImm 0x0 0x12) ∧
    decodeWord 0x4A13 = some (.sneImm 0xA 0x13) ∧ decodeWord 0x5120 = some (.seReg 0x1 0x2) ∧
    decodeWord 0x512F = some (.seReg 0x1 0x2) ∧ decodeWord 0x9127 = some (.sneReg 0x1 0x2) := by decide
theorem test_decode_immediates : decodeWord 0b0110000000000101 = some (.ldImm 0x0 0x05) ∧
    decodeWord 0x71FF = some (.addImm 0x1 0xFF) ∧ decodeWord 0xC30F = some (.rnd 0x3 0x0F) := by decide
theorem test_decode_class8 : decodeWord 0b1000000100100000 = some (.ldReg 0x1 0x2) ∧
    decodeWord 0x8121 = some (.orReg 0x1 0x2) ∧ decodeWord 0x8122 = some (.andReg 0x1 0x2) ∧
    decodeWord 0x8123 = some (.xorReg 0x1 0x2) ∧ decodeWord 0x8124 = some (.addReg 0x1 0x2) ∧
    decodeWord 0x8125 = some (.subReg 0x1 0x2) ∧ decodeWord 0x8126 = some (.shr 0x1 0x2) ∧
    decodeWord 0x8127 = some (.subnReg 0x1 0x2) ∧ decodeWord 0x812E = some (.shl 0x1 0x2) := by decide
theorem test_decode_index_and_draw : decodeWord 0b1010001000000000 = some (.ldI 0x200) ∧
    decodeWord 0b1101000100100101 = some (.drw 0x1 0x2 0x5) := by decide
theorem test_decode_keys : decodeWord 0b1110010010011110 = some (.skp 0x4) ∧ decodeWord 0xE4A1 = some (.sknp 0x4) := by
  decide
theorem test_decode_classF : decodeWord 0b1111001100000111 = some (.ldVxDt 0x3) ∧ decodeWord 0xF30A = some (.ldVxK 0x3) ∧
    decodeWord 0xF315 = some (.ldDtVx 0x3) ∧ decodeWord 0xF318 = some (.ldStVx 0x3) ∧
    decodeWord 0xF31E = some (.addI 0x3) ∧ decodeWord 0xF329 = some (.ldF 0x3) ∧ decodeWord 0xF333 = some (.ldB 0x3) ∧
    decodeWord 0xFA55 = some (.ldMemVx 0xA) ∧ decodeWord 0xF265 = some (.ldVxMem 0x2) := by decide
/-- Words on either side of a defined sub-opcode (30_encoding.md R98). -/
theorem test_decode_undefined : decodeWord 0x8008 = none ∧ decodeWord 0x800F = none ∧ decodeWord 0xE09F = none ∧
    decodeWord 0xE0A0 = none ∧ decodeWord 0xF0FF = none ∧ decodeWord 0xF066 = none := by decide
theorem test_decode_bytes : decode [0x60, 0x05, 0xA2] = .instr (.ldImm 0x0 0x05) [0xA2] ∧
    decode [0x60] = .rejected .truncated ∧ decode [0xF0, 0xFF] = .rejected (.undefinedOpcode 0xF0FF) := by decide
theorem test_decodeTableWord : decodeTableWord 16 0x6005 = some (.ldImm 0x0 0x05) ∧ decodeTableWord 16 0x8008 = none := by
  decide

/-! ## Ticks -/

/-- The state after reset with the word `w` at 0x200, changed by `f`. -/
def start (w : Nat) (f : State → State := id) : State := f (State.reset.withFetchWord 16 w)

/-- What `f` sees in the state after one tick. -/
def seen {α : Type} (f : State → α) (s : State) : Option α :=
  match step s with
  | .next t => some (f t)
  | .fault _ => none
  | .refused _ => none

/-- The registers of interest: x[0], VF. -/
def v0vf (t : State) : Byte × Byte := (t.reg 0x0, t.reg 0xF)

/-- x[0] and x[1] set. -/
def regs01 (a b : Byte) (s : State) : State := (s.setReg 0x0 a).setReg 0x1 b

theorem test_reset_memory_wf : Memory.wf State.reset.mem := by decide
theorem test_reset_glyph_A : State.reset.mem.read 0x32 = 0xF0 ∧ State.reset.mem.read 0x4F = 0x80 ∧
    State.reset.mem.read 0x50 = 0x00 := by decide

/-- V-C1, V-C20: a jump, also to an odd address. -/
theorem test_jp : seen State.pc (start 0x1ABC) = some 0x0ABC ∧ seen State.pc (start 0x1203) = some 0x0203 := by decide
/-- V-C16: not reduced modulo 4096; the next tick reports. -/
theorem test_jpV0 : seen State.pc (start 0xBFFF (State.setReg · 0x0 0xFF)) = some 0x10FE ∧
    seen (fun t => (t.pc, t.result)) (State.reset.setPc 0x10FE) =
      some (0x10FE, .report (.memoryOutOfRange .fetch 0x10FE)) := by decide
/-- V-C3. -/
theorem test_call : seen (fun t => (t.stack[0], t.sp, t.pc)) ((State.reset.setPc 0x2F0).withFetchWord 16 0x2ABC) =
    some (0x02F0, 1, 0x0ABC) := by decide
/-- V-C4: the popped entry stays. -/
theorem test_ret : seen (fun t => (t.sp, t.pc, t.stack[1]))
    (start 0x00EE fun s => (s.setSp 2).setStack ((s.stack.set 0 0x0204).set 1 0x030A)) = some (1, 0x030C, 0x030A) := by
  decide
/-- V-C5. -/
theorem test_ret_empty : seen (fun t => (t.pc, t.sp, t.result)) (start 0x00EE) =
    some (0x0200, 0, .report (.stackUnderflow 0x0200)) := by decide
/-- V-C18. -/
theorem test_sys : seen (fun t => (t.pc, t.result)) (start 0x0123) =
    some (0x0202, .report (.undefinedOpcode 0x0123 0x0200)) := by decide
/-- V-C6, V-C7. -/
theorem test_seImm : seen State.pc (start 0x3012 (State.setReg · 0x0 0x12)) = some 0x0204 ∧
    seen State.pc (start 0x3012 (State.setReg · 0x0 0x13)) = some 0x0202 := by decide
/-- V-C8, V-C9. -/
theorem test_sneImm : seen State.pc (start 0x4012 (State.setReg · 0x0 0x12)) = some 0x0202 ∧
    seen State.pc (start 0x4012 (State.setReg · 0x0 0x13)) = some 0x0204 := by decide
/-- V-C11 (w[3:0] ignored) and the shape of V-C10. -/
theorem test_seReg : seen State.pc (start 0x501F (regs01 7 7)) = some 0x0204 ∧
    seen State.pc (start 0x5010 (regs01 7 8)) = some 0x0202 := by decide
/-- The shapes of V-C13, V-C14. -/
theorem test_sneReg : seen State.pc (start 0x9010 (regs01 7 8)) = some 0x0204 ∧
    seen State.pc (start 0x9017 (regs01 7 7)) = some 0x0202 := by decide

/-- 42_alu.md R161, R162 (V-A31, V-A32). -/
theorem test_ldImm : seen (fun t => (t.reg 0x0, t.pc)) (start 0x6005) = some (0x05, 0x0202) := by decide
theorem test_addImm : seen v0vf (start 0x7001 fun s => (s.setReg 0x0 0xFF).setReg 0xF 0x09) = some (0x00, 0x09) := by
  decide
/-- V-A30, V-A28, V-A29. -/
theorem test_ldReg : seen v0vf (start 0x8010 (regs01 0x01 0x99)) = some (0x99, 0x00) := by decide
theorem test_orReg : seen v0vf (start 0x8011 fun s => (regs01 0x50 0x05 s).setReg 0xF 0x07) = some (0x55, 0x07) := by
  decide
theorem test_andReg : seen v0vf (start 0x8012 fun s => (regs01 0xFF 0x00 s).setReg 0xF 0x07) = some (0x00, 0x07) := by
  decide
/-- V-A14, V-A15; V-A19 (X = 0xF). -/
theorem test_xorReg : seen v0vf (start 0x8013 (regs01 0xAA 0x55)) = some (0xFF, 0) ∧
    seen v0vf (start 0x8013 (regs01 0xFF 0x01)) = some (0xFE, 1) := by decide
theorem test_xorReg_flag : seen (State.reg · 0xF) (start 0x8F13 fun s => (s.setReg 0xF 0x0F).setReg 0x1 0x01) = some 1 := by
  decide
/-- V-A2, V-A3; V-A6 (the old VF is the addend). -/
theorem test_addReg : seen v0vf (start 0x8014 (regs01 0xFF 0xFF)) = some (0xFE, 1) ∧
    seen v0vf (start 0x8014 (regs01 0x80 0x7F)) = some (0xFF, 0) := by decide
theorem test_addReg_flag : seen v0vf (start 0x80F4 fun s => (s.setReg 0x0 0x10).setReg 0xF 0x01) = some (0x11, 0) := by
  decide
/-- V-A8, V-A9; V-A10. -/
theorem test_subReg : seen v0vf (start 0x8015 (regs01 0x00 0x01)) = some (0xFF, 0) ∧
    seen v0vf (start 0x8015 (regs01 0x07 0x07)) = some (0x00, 1) := by decide
theorem test_subReg_flag : seen (State.reg · 0xF) (start 0x8F15 fun s => (s.setReg 0xF 0x03).setReg 0x1 0x05) = some 0 := by
  decide
/-- V-A12, V-A13. -/
theorem test_subnReg : seen v0vf (start 0x8017 (regs01 0x01 0x00)) = some (0xFF, 0) ∧
    seen v0vf (start 0x8017 (regs01 0x07 0x07)) = some (0x00, 1) := by decide
/-- V-A20; V-A22, V-A23. -/
theorem test_shr : seen (fun t => (v0vf t, t.reg 0x1)) (start 0x8016 (regs01 0xFF 0x12)) = some ((0x7F, 1), 0x12) := by
  decide
theorem test_shr_flag : seen (State.reg · 0xF) (start 0x8F06 (State.setReg · 0xF 0x03)) = some 1 ∧
    seen (State.reg · 0xF) (start 0x8F06 (State.setReg · 0xF 0x02)) = some 0 := by decide
/-- V-A24, V-A25; V-A26, V-A27. -/
theorem test_shl : seen v0vf (start 0x801E (regs01 0xFF 0x00)) = some (0xFE, 1) ∧
    seen v0vf (start 0x801E (regs01 0x40 0x00)) = some (0x80, 0) := by decide
theorem test_shl_flag : seen (State.reg · 0xF) (start 0x8F0E (State.setReg · 0xF 0x80)) = some 1 ∧
    seen (State.reg · 0xF) (start 0x8F0E (State.setReg · 0xF 0x7F)) = some 0 := by decide
/-- V-A34, V-A35 with the random byte 0xA7 presented; it is gone after the tick. -/
theorem test_rnd : seen (fun t => (t.reg 0x0, t.randIn)) (start 0xC00F (State.setRandIn · (some 0xA7))) = some (0x07, none) ∧
    seen (State.reg · 0x0) (start 0xC0FF (State.setRandIn · (some 0xA7))) = some 0xA7 := by decide
/-- V-A38: an undefined word reports, advances and runs the timer pass. -/
theorem test_undefined : seen (fun t => (t.pc, t.dt, t.st, t.result)) (start 0x8008 fun s => (s.setDt 1).setSt 1) =
    some (0x0202, 0, 0, .report (.undefinedOpcode 0x8008 0x0200)) := by decide

/-- V-M1, V-M2, V-M3. -/
theorem test_ldI : seen State.I (start 0xAFFF) = some 0x0FFF := by decide
theorem test_addI : seen (fun t => (t.I, t.reg 0xF)) (start 0xF01E fun s => (s.setI 0xFFFF).setReg 0x0 1) = some (0, 0) ∧
    seen (fun t => (t.I, t.reg 0xF)) (start 0xF01E fun s => ((s.setI 0x0FFF).setReg 0x0 1).setReg 0xF 5) =
      some (0x1000, 5) := by decide
/-- V-M4, V-M5. -/
theorem test_ldF : seen State.I (start 0xF029 (State.setReg · 0x0 0x1A)) = some 0x0032 ∧
    seen State.I (start 0xFF29 (State.setReg · 0xF 0xFF)) = some 0x004B := by decide
/-- V-M7; V-M8. -/
theorem test_ldB : seen (fun t => t.mem.readBytes 0xFFD 3) (start 0xF033 fun s => (s.setI 0x0FFD).setReg 0x0 0xFF) =
    some [2, 5, 5] := by decide
theorem test_ldB_out_of_range : seen (fun t => (t.pc, t.mem.readBytes 0xFFE 2, t.result))
    (start 0xF033 fun s => (s.setI 0x0FFE).setReg 0x0 0xFF) =
      some (0x0200, [0, 0], .report (.memoryOutOfRange .data 0x0FFE)) := by decide
/-- V-M19: the instruction overwrites itself; V-M13: no partial store. -/
theorem test_ldMemVx : seen (fun t => (t.mem.readBytes 0x200 2, t.pc, t.I)) (start 0xF155 fun s =>
    (regs01 0x12 0x02 s).setI 0x0200) = some ([0x12, 0x02], 0x0202, 0x0200) := by decide
theorem test_ldMemVx_out_of_range : seen (fun t => (t.pc, t.mem.read 0xFF1, t.result))
    (start 0xFF55 fun s => (s.setI 0x0FF1).setReg 0x0 1) =
      some (0x0200, 0, .report (.memoryOutOfRange .data 0x0FF1)) := by decide
/-- V-M16; V-M17: no partial load. -/
theorem test_ldVxMem : seen (fun t => (t.reg 0x0, t.reg 0x1, t.reg 0x2)) (start 0xF165 (State.setReg · 0x2 0xEE)) =
    some (0xF0, 0x90, 0xEE) := by decide
theorem test_ldVxMem_out_of_range : seen (fun t => (t.pc, t.reg 0x0, t.result))
    (start 0xF165 fun s => (s.setI 0x0FFF).setReg 0x0 0xEE) =
      some (0x0200, 0xEE, .report (.memoryOutOfRange .data 0x0FFF)) := by decide

/-- V-K1, V-K2. -/
theorem test_skp : seen State.pc (start 0xE09E fun s => (s.setReg 0x0 0x15).setKey (some 5)) = some 0x0204 ∧
    seen State.pc (start 0xE09E (State.setReg · 0x0 0x05)) = some 0x0202 := by decide
/-- V-K5, V-K6. -/
theorem test_sknp : seen State.pc (start 0xE0A1) = some 0x0204 ∧
    seen State.pc (start 0xE0A1 (State.setKey · (some 0))) = some 0x0202 := by decide
/-- V-K7, V-K8. -/
theorem test_ldVxK : seen (fun t => (t.pc, t.reg 0x0, t.dt)) (start 0xF00A fun s => (s.setReg 0x0 0x44).setDt 3) =
    some (0x0200, 0x44, 2) ∧ seen (fun t => (t.pc, t.reg 0x0, t.key)) (start 0xF00A fun s =>
      (s.setReg 0x0 0x44).setKey (some 0)) = some (0x0202, 0x00, some 0) := by decide
/-- V-K11, V-K13. -/
theorem test_ldVxDt : seen (fun t => (t.reg 0x0, t.dt)) (start 0xF007 (State.setDt · 1)) = some (1, 0) ∧
    seen (fun t => (t.reg 0x0, t.dt)) (start 0xF007 fun s => (s.setDt 5).setPaused true) = some (5, 5) := by decide
/-- V-K14, V-K16. -/
theorem test_ldDtVx : seen State.dt (start 0xF015) = some 0 ∧
    seen State.dt (start 0xF015 (State.setReg · 0x0 0xFF)) = some 0xFE := by decide
/-- V-K19. -/
theorem test_ldStVx : seen (fun t => (t.st, t.dt)) (start 0xF018 fun s => (s.setReg 0x0 2).setDt 7) = some (1, 6) := by
  decide

/-- Some cells of a grid. -/
def cells (g : Grid) (l : List (Fin Config.gridH × Fin Config.gridW)) : List Bool := l.map fun p => g.cell p.1 p.2

/-- V-D16 with one cell on, and V-K20's draw request. -/
theorem test_cls : seen (fun t => (t.grid.cell 3 5, t.drawReq, t.pc))
    (start 0x00E0 fun s => s.setGrid (s.grid.setCell 3 5 true)) = some (false, true, 0x0202) := by decide
/-- V-D3: columns and rows wrap. -/
theorem test_drw_wraps : seen (fun t => (cells t.grid [(31, 63), (31, 0), (31, 6), (31, 7), (0, 63), (0, 0), (0, 6)], t.reg 0xF))
    (start 0xD012 fun s => ((regs01 63 31 s).setI 0x300).setMem (s.mem.writeBytes 0x300 [0xFF, 0x81])) =
      some ([true, true, true, false, true, false, true], 0) := by decide
/-- V-D9 (a collision) and V-D8 (two rows, clamped). -/
theorem test_drw_collides_and_clamps : seen (fun t => (cells t.grid [(0, 8), (0, 9), (0, 11)], t.reg 0xF))
    (start 0xD011 fun s => (((regs01 4 0 s).setI 0x300).setMem (s.mem.write 0x300 0x0F)).setGrid (s.grid.setCell 0 8 true)) =
      some ([false, true, true], 1) ∧
    seen (fun t => (cells t.grid [(0, 0), (1, 1), (2, 0)], t.reg 0xF))
      (start 0xD015 fun s => ((s.setReg 0xF 1).setI 0xFFE).setMem (s.mem.writeBytes 0xFFE [0x80, 0x40])) =
      some ([true, true, false], 0) := by decide

/-- A word is placed at pc, or at 0x200 when no fetch at pc is in range. -/
theorem test_withFetchWord : ((State.reset.setPc 0x203).withFetchWord 16 0x6A11).fetch = some 0x6A11 ∧
    ((State.reset.setPc 0x10FE).withFetchWord 16 0x6A11).pc = 0x0200 := by decide

/-- T25: `load` at the edge of memory. -/
theorem test_load : (State.reset.hostLoad [0xAA, 0xBB] 0xFFE).result = .ok ∧
    (State.reset.hostLoad [0xAA, 0xBB] 0xFFE).mem.read 0xFFF = 0xBB ∧
    (State.reset.hostLoad [] 0x1000).result = .ok ∧
    (State.reset.hostLoad [0xAA] 0x1000).result = .report (.loadOverflow 0x1000 1) := by decide

/-! ## Witnesses: states and operands that meet the hypotheses of the obligations, at the ends of their ranges -/

/-- A step's next state, by what is seen in it. -/
theorem next_of_seen {α : Type} {f : State → α} {s : State} {a : α} (h : seen f s = some a) :
    ∃ t, step s = .next t ∧ f t = a := by
  unfold seen at h
  cases e : step s with
  | next t => rw [e] at h; exact ⟨t, rfl, Option.some.inj h⟩
  | fault r => cases r
  | refused r => rw [e] at h; cases h

/-- The invariant in a state whose memory lists nothing and whose stack is empty. -/
theorem machineInv_of_empty (s : State) (hm : s.mem = []) (hp : s.pc.toNat ≤ 0x10FE) (hs : s.sp = 0) : MachineInv s where
  memWf := by rw [hm]; decide
  pcBound := hp
  liveBound := fun k h => absurd h (by unfold State.live; rw [hs]; exact Nat.not_lt_zero _)

/-- A live entry at its bound: RET's new pc is then 0x1000. -/
theorem witness_ReturnPopsAndAddsTwo_invariant :
    let s := (State.reset.setSp 1).setStack (State.reset.stack.set 0 0x0FFE)
    MachineInv s ∧ s.sp.val = 0 + 1 ∧ s.stack[0] = 0x0FFE := by
  refine ⟨⟨by decide, by decide, fun k h => ?_⟩, rfl, by decide⟩
  have hk : k = 0 := Fin.ext (Nat.lt_one_iff.1 h)
  subst hk
  decide

theorem witness_EveryTickKeepsTheInvariant : MachineInv (State.reset.setPc 0x10FE) ∧
    ∃ t, step (State.reset.setPc 0x10FE) = .next t ∧ t.pc = 0x10FE :=
  ⟨machineInv_of_empty _ rfl (by decide) rfl, next_of_seen (f := State.pc) (by decide)⟩
theorem witness_ReachableStatesMeetTheInvariant : Reachable State.reset.hostPause ∧ ∃ t, Reachable t ∧ t.pc = 0x0202 := by
  refine ⟨.host .pause .reset rfl, ?_⟩
  obtain ⟨t, h, e⟩ := next_of_seen (f := State.pc) (s := State.reset) (a := 0x0202) (by decide)
  exact ⟨t, .tick .reset h, e⟩
theorem witness_TickExecutesTheDecodedInstruction : DecodesAtPc (start 0x6005) (.ldImm 0x0 0x05) ∧
    DecodesAtPc ((State.reset.setPc 0xFFE).withFetchWord 16 0x3F01) (.seImm 0xF 0x01) :=
  ⟨⟨by decide, by decide⟩, by decide, by decide⟩
theorem witness_UndefinedWordsReportAndAdvance :
    ((start 0x8008).pc.toNat + 2 ≤ 4096 ∧ fieldClass (start 0x8008).fetchedWord = 0x8 ∧
      fieldN (start 0x8008).fetchedWord ∈ ([0x8, 0x9, 0xA, 0xB, 0xC, 0xD, 0xF] : List Nibble)) ∧
    ((start 0xE000).pc.toNat + 2 ≤ 4096 ∧ fieldClass (start 0xE000).fetchedWord = 0xE ∧
      fieldKK (start 0xE000).fetchedWord ∉ ([0x9E, 0xA1] : List Byte)) ∧
    (let s := (State.reset.setPc 0xFFE).withFetchWord 16 0xF0FF;
      s.pc.toNat + 2 = 4096 ∧ fieldClass s.fetchedWord = 0xF ∧
      fieldKK s.fetchedWord ∉ ([0x07, 0x0A, 0x15, 0x18, 0x1E, 0x29, 0x33, 0x55, 0x65] : List Byte)) := by decide
theorem witness_FetchOutOfRangeReportsAndStays : 4096 < (State.reset.setPc 0x0FFF).pc.toNat + 2 ∧
    4096 < (State.reset.setPc 0xFFFF).pc.toNat + 2 := by decide
theorem witness_PauseSuppressesOnlyTheTimerPass : DecodesAtPc (start 0xF015) (.ldDtVx 0x0) ∧
    DecodesAtPc (start 0xF018) (.ldStVx 0x0) ∧ DecodesAtPc (start 0xF307) (.ldVxDt 0x3) ∧
    ∀ i, ¬ DecodesAtPc (State.reset.setPc 0x0FFF) i :=
  ⟨⟨by decide, by decide⟩, ⟨by decide, by decide⟩, ⟨by decide, by decide⟩, fun _ h => absurd h.1 (by decide)⟩
/-- The two results ReportsArePreciseAndAtMostOne distinguishes both occur. -/
theorem witness_ReportsArePreciseAndAtMostOne : seen State.result (start 0x6005) = some .ok ∧
    seen State.result (start 0x00EE) = some (.report (.stackUnderflow 0x0200)) := by decide
/-- The ranges of LD B and of the register moves at their last address. -/
theorem witness_ReportsAriseExactlyWhereNamed : (start 0xF033).result = .ok ∧
    (Instr.ldB 0x0).wellFormed = true ∧ (Instr.sys 0xFFF).wellFormed = true ∧
    (State.reset.setI 0x0FFD).I.toNat + 3 = 4096 ∧ (State.reset.setI 0x0FF0).I.toNat + (0xF : RegIdx).toNat + 1 = 4096 ∧
    (State.reset.setSp 16).sp.val = 16 ∧ State.reset.sp.val = 0 := by decide
theorem witness_OtherReportsRepeatEveryTick : reportCode (.stackUnderflow 0x0200) ≠ 1 ∧
    ∃ t, step (start 0x00EE) = .next t ∧ t.result = .report (.stackUnderflow 0x0200) :=
  ⟨by decide, next_of_seen (f := State.result) (by decide)⟩
theorem witness_DecodingAnEncodedInstructionGivesItBack : (Instr.sys 0xFFF).wellFormed = true ∧
    (Instr.drw 0xF 0xF 0xF).wellFormed = true := by decide
theorem witness_DecodedWordsAreEncodings : decodeWord 0x512F = some (.seReg 0x1 0x2) ∧
    encode (.seReg 0x1 0x2) = 0x512F &&& 0xFFF0 ∧ decodeWord 0xFFFF = none := by decide
/-- JP 0xFFF and the largest target of JP V0 are beyond the last fetch. -/
theorem witness_JumpsSetOnlyThePc : 0xFFE < (State.reset.setPc (addrOf 0xFFF)).pc.toNat ∧
    0xFFE < (State.reset.setPc 0x10FE).pc.toNat := by decide
theorem witness_CallPushesItsOwnAddress : (State.reset.setSp 15).sp.val = (15 : Fin 16).val ∧
    State.reset.sp.val = (0 : Fin 16).val ∧ (State.reset.setSp 16).sp.val = 16 := by decide
theorem witness_ReturnPopsAndAddsTwo : (State.reset.setSp 16).sp.val = (15 : Fin 16).val + 1 ∧
    (State.reset.setSp 1).sp.val = (0 : Fin 16).val + 1 ∧ State.reset.sp.val = 0 := by decide
theorem witness_CallThenReturnResumesAfterTheCall : (State.reset.setSp 15).sp.val < 16 ∧
    seen (fun t => decide ((t.setI 5).sp = t.sp ∧ (t.setI 5).stack = t.stack)) (start 0x2ABC) = some true := by decide
/-- The destination is not VF in these forms. -/
theorem witness_flag_destination : (0x0 : RegIdx) ≠ 0xF ∧ (0xE : RegIdx) ≠ 0xF := by decide
theorem witness_RandomIsMaskedByTheImmediate : State.reset.randIn = none ∧
    (State.reset.setRandIn (some 0xA7)).randIn = some 0xA7 := by decide
theorem witness_StoreBcdStoresTheThreeDigits : Memory.wf (State.reset.setI 0x0FFD).mem ∧
    (State.reset.setI 0x0FFD).I.toNat + 3 ≤ 4096 := by decide
theorem witness_StoreRangeStoresTheRegisters : Memory.wf (State.reset.setI 0x0FF0).mem ∧
    (State.reset.setI 0x0FF0).I.toNat + (0xF : RegIdx).toNat + 1 ≤ 4096 := by decide
theorem witness_LoadRangeLoadsTheRegisters : (State.reset.setI 0x0FFF).I.toNat + (0x0 : RegIdx).toNat + 1 ≤ 4096 := by
  decide
theorem witness_DataOutOfRangeReportsAndTransfersNothing : 4096 < (State.reset.setI 0x0FFE).I.toNat + 3 ∧
    4096 < (State.reset.setI 0x0FF1).I.toNat + (0xF : RegIdx).toNat + 1 ∧
    4096 < (State.reset.setI 0xFFFF).I.toNat + (0x0 : RegIdx).toNat + 1 := by decide
theorem witness_StoredBytesAreFetchedAtOnce : Memory.wf State.reset.mem ∧ (State.reset.setI 0x0FFD).I.toNat + 3 ≤ 4096 ∧
    (State.reset.setI 0x0FF0).I.toNat + (0xF : RegIdx).toNat + 1 ≤ 4096 ∧ 0xFFE + ([0x12, 0x02] : List Byte).length ≤ 4096 := by
  decide
/-- A later state on the stored bytes at an odd pc, and one that meets a single stored byte. -/
theorem witness_FetchesStored : let u := (State.reset.setMem (State.reset.mem.writeBytes 0x301 [0x12, 0x02]));
    (u.setPc 0x301).fetch = some 0x1202 ∧ (u.setPc 0x302).fetch = some 0x0200 ∧ (u.setPc 0x302).pc.toNat + 2 ≤ 4096 := by
  decide
theorem witness_SysReportsItsWordAndAdvances : (Instr.sys 0x000).wellFormed = true ∧ (Instr.sys 0x0EF).wellFormed = true := by
  decide
theorem witness_EveryHostOperationKeepsTheInvariant : MachineInv State.reset ∧
    ∃ t, hostStep (.load [0x60, 0x05] 0xFFE) State.reset = .next t ∧ t.result = .ok :=
  ⟨machineInv_of_empty _ rfl (by decide) rfl, _, rfl, by decide⟩
theorem witness_WaitForKeyHoldsThePc : (start 0xF30A).key = none ∧ DecodesAtPc (start 0xF30A) (.ldVxK 0x3) ∧
    (State.reset.setKey (some 0xF)).key = some 0xF :=
  ⟨by decide, ⟨by decide, by decide⟩, by decide⟩
theorem witness_TimerMovesAndTheSameTicksCountdown : DecodesAtPc (start 0xF307) (.ldVxDt 0x3) ∧
    DecodesAtPc (start 0xF215) (.ldDtVx 0x2) ∧ DecodesAtPc (start 0xF218) (.ldStVx 0x2) :=
  ⟨⟨by decide, by decide⟩, ⟨by decide, by decide⟩, by decide, by decide⟩
theorem witness_CompositeXorsTheWrappedSprite : (List.replicate 15 (0xFF : Byte)).length ≤ 15 ∧
    ([] : List Byte).length ≤ 15 := by decide
/-- An instruction that may write none of the parts the frames name, and registers beside the destinations. -/
theorem witness_EachPartIsWrittenOnlyByItsInstructions : Instr.ldImm 0x0 0x05 ≠ .cls ∧
    (∀ nnn, Instr.ldImm 0x0 0x05 ≠ .call nnn) ∧ (∀ x, Instr.ldImm 0x0 0x05 ≠ .ldB x) ∧
    mayReport (.ldImm 0x0 0x05) = false ∧ regWrites (.ldImm 0x0 0x05) 0xF = false ∧
    regWrites (.addReg 0x0 0x1) 0x1 = false ∧ regWrites (.ldVxMem 0x3) 0x4 = false :=
  ⟨by decide, fun _ => by simp, fun _ => by simp, by decide⟩
/-- The register writes of 10_state.md R25 at the edges of a range and at VF. -/
theorem test_regWrites : regWrites (.ldVxMem 0x3) 0x3 = true ∧ regWrites (.addReg 0x0 0x1) 0xF = true ∧
    regWrites (.drw 0x0 0x1 0x5) 0x0 = false ∧ regWrites (.addImm 0x0 0x1) 0xF = false := by decide
/-- An array that differs from the stack, in a stale entry alone. -/
theorem witness_StaleStackEntriesInfluenceNothing :
    (∀ k : Fin 16, (State.reset.setSp 15).live k → (State.reset.stack.set 15 0x0204)[k] = (State.reset.setSp 15).stack[k]) ∧
    State.reset.stack.set 15 0x0204 ≠ State.reset.stack := by
  refine ⟨fun k h => ?_, by decide⟩
  have hk : k.val < 15 := h
  have hne : (15 : Nat) ≠ k.val := by omega
  exact Vector.getElem_set_ne (xs := State.reset.stack) (by decide) k.isLt hne
theorem witness_OnlyRandomReadsTheRandomInput : ∀ x kk, ¬ DecodesAtPc (start 0x6005) (.rnd x kk) := by
  intro x kk h
  have e := h.2
  rw [show decodeWord (start 0x6005).fetchedWord = some (.ldImm 0x0 0x05) by decide] at e
  cases e
theorem witness_LoadCopiesAllOrNothing : Memory.wf State.reset.mem ∧ 0x200 + (List.replicate 3584 (0xAA : Byte)).length ≤ 4096 ∧
    4096 < 0x200 + (List.replicate 3585 (0xAA : Byte)).length := by
  simp only [List.length_replicate]
  decide
theorem witness_LoadedImageIsFetchedHighByteFirst : Memory.wf State.reset.mem ∧
    0x200 + ([0x60, 0x05, 0xA2, 0x00] : List Byte).length ≤ 4096 ∧
    2 * 1 + 1 < ([0x60, 0x05, 0xA2, 0x00] : List Byte).length ∧ (State.reset.setPc 0x202).pc.toNat = 0x200 + 2 * 1 := by decide
theorem witness_KeyEventsAndPauseChangeOnlyTheirLatch : 16 ≤ 16 ∧ (0xF : Nibble).toNat = 15 := by decide

end Sys2Proof.Tests
end

section
/-! Loading a program image and fetching from it (spec/20_memory.md R63, R78, R81). -/

namespace Sys2Proof.Machine

section Load
variable {s u : State} {bytes : List Byte} {offset : Nat}

/-- A load that fits stores its bytes and answers `ok` (R78). -/
theorem State.hostLoad_of_fits (h : offset + bytes.length ≤ Config.memSize) :
    s.hostLoad bytes offset = (s.setMem (s.mem.writeBytes offset bytes)).setResult .ok :=
  if_pos (decide_eq_true h)

/-- Byte `k` of a loaded image is at `offset + k` (R78). -/
theorem State.read_hostLoad (hm : s.mem.wf) (hfit : offset + bytes.length ≤ Config.memSize) {k : Nat}
    (hk : k < bytes.length) : (s.hostLoad bytes offset).mem.read (offset + k) = bytes[k] := by
  rw [State.hostLoad_of_fits hfit]
  exact Memory.read_writeBytes_at hm.1 hk

/-- Any state on the memory of a loaded image, with `pc` at the image's byte `k`, fetches bytes `k` and `k + 1`, the one
at the lower address as the high byte (R63). -/
theorem State.fetch_of_hostLoad (hm : s.mem.wf) (hfit : offset + bytes.length ≤ Config.memSize) {k : Nat}
    (hk : k + 1 < bytes.length) (hmem : u.mem = (s.hostLoad bytes offset).mem) (hpc : u.pc.toNat = offset + k) :
    u.fetch = some (bytes[k] ++ bytes[k + 1]) := by
  have hhi : u.mem.read (offset + k) = bytes[k] := hmem ▸ State.read_hostLoad hm hfit (by omega)
  have hlo : u.mem.read (offset + k + 1) = bytes[k + 1] := hmem ▸ State.read_hostLoad hm hfit hk
  have hin : u.pc.toNat + 2 ≤ Config.memSize := by omega
  rw [State.fetch_eq, if_pos hin, State.fetchedWord, hpc, hhi, hlo]

end Load

/-- Settles O54: instruction `j` begins at byte `2 * j` of the image; the rule's own example is its instructions 0 and 1
after reset. -/
theorem loadedImageIsFetchedHighByteFirst : Obligations.LoadedImageIsFetchedHighByteFirst := by
  refine ⟨fun s image hm hfit => ⟨s.hostLoad image 0x200, rfl, fun k hk => State.read_hostLoad hm hfit hk,
    fun j hj u hmem hpc => State.fetch_of_hostLoad hm hfit hj hmem hpc⟩, ?_⟩
  have hm : State.reset.mem.wf := by decide
  have hfit : 0x200 + ([0x60, 0x05, 0xA2, 0x00] : List Byte).length ≤ Config.memSize := by decide
  have hpc : (State.reset.hostLoad [0x60, 0x05, 0xA2, 0x00] 0x200).pc = 0x200 := by
    rw [State.hostLoad_of_fits hfit]; rfl
  exact ⟨_, rfl, State.fetch_of_hostLoad hm hfit (k := 0) (by decide) rfl (congrArg BitVec.toNat hpc),
    State.fetch_of_hostLoad hm hfit (k := 2) (by decide) (State.setPc_mem _ _) rfl⟩

end Sys2Proof.Machine
end

section
/-! A paused tick beside a tick that is not paused (spec/40_tick.md R128, R129). -/

namespace Sys2Proof.Machine

/-- DT after the execute phase of an instruction: LD DT,Vx alone writes it (44_timer_key.md R214). -/
def dtAfter (i : Instr) (s : State) : Byte :=
  match i with
  | .ldDtVx x => s.reg x
  | _ => s.dt

/-- ST after the execute phase of an instruction: LD ST,Vx alone writes it (44_timer_key.md R215). -/
def stAfter (i : Instr) (s : State) : Byte :=
  match i with
  | .ldStVx x => s.reg x
  | _ => s.st

/-- A run of registers is written the same whatever PAUSED is. -/
theorem State.setRegsFrom_setPaused (s : State) (b : Bool) (k : Nat) (bs : List Byte) :
    (s.setPaused b).setRegsFrom k bs = (s.setRegsFrom k bs).setPaused b := by
  induction bs generalizing s k with
  | nil => rfl
  | cons c bs ih => exact ih (s.setReg (BitVec.ofNat 4 k) c) (k + 1)

/-- A conditional skip is the same whatever PAUSED is. -/
theorem State.skipIf_setPaused (s : State) (b c : Bool) : (s.setPaused b).skipIf c = (s.skipIf c).setPaused b := by
  cases c <;> rfl

/-- `t` is what the execute phase of `i` makes of `s`, PAUSED has no part in it, and the timers are those of `dtAfter` and
`stAfter`. -/
structure ExecutesWhateverPaused (i : Instr) (s t : State) : Prop where
  exec_eq : exec i s = .next t
  exec_setPaused : ∀ b, exec i (s.setPaused b) = .next (t.setPaused b)
  dt_eq : t.dt = dtAfter i s
  st_eq : t.st = stAfter i s

/-- Every instruction executes the same whatever PAUSED is, and writes no timer but by its own move (R129). -/
theorem exists_executesWhateverPaused (i : Instr) (s : State) : ∃ t, ExecutesWhateverPaused i s t := by
  cases i
  case ret =>
    rcases s.sp_cases with h | ⟨k, h⟩
    · exact ⟨_, exec_ret_of_zero s h, fun b => exec_ret_of_zero (s.setPaused b) h, rfl, rfl⟩
    · exact ⟨_, exec_ret_of_succ s k h, fun b => exec_ret_of_succ (s.setPaused b) k h, rfl, rfl⟩
  case call nnn =>
    rcases s.sp_full_or_lt with h | h
    · exact ⟨_, exec_call_of_full s nnn h, fun b => exec_call_of_full (s.setPaused b) nnn h, rfl, rfl⟩
    · exact ⟨_, exec_call_of_lt s nnn h, fun b => exec_call_of_lt (s.setPaused b) nnn h, rfl, rfl⟩
  case ldVxK x =>
    cases h : s.key with
    | none => exact ⟨_, exec_ldVxK_of_none s x h, fun b => exec_ldVxK_of_none (s.setPaused b) x h, rfl, rfl⟩
    | some k => exact ⟨_, exec_ldVxK_of_some s x k h, fun b => exec_ldVxK_of_some (s.setPaused b) x k h, rfl, rfl⟩
  case ldB x =>
    rcases Nat.lt_or_ge Config.memSize (s.I.toNat + 3) with h | h
    · exact ⟨_, exec_ldB_of_lt s x h, fun b => exec_ldB_of_lt (s.setPaused b) x h, rfl, rfl⟩
    · exact ⟨_, exec_ldB_of_le s x h, fun b => exec_ldB_of_le (s.setPaused b) x h, rfl, rfl⟩
  case ldMemVx x =>
    rcases Nat.lt_or_ge Config.memSize (s.I.toNat + rangeCount x) with h | h
    · exact ⟨_, exec_ldMemVx_of_lt s x h, fun b => exec_ldMemVx_of_lt (s.setPaused b) x h, rfl, rfl⟩
    · exact ⟨_, exec_ldMemVx_of_le s x h, fun b => exec_ldMemVx_of_le (s.setPaused b) x h, rfl, rfl⟩
  case ldVxMem x =>
    rcases Nat.lt_or_ge Config.memSize (s.I.toNat + rangeCount x) with h | h
    · exact ⟨_, exec_ldVxMem_of_lt s x h, fun b => exec_ldVxMem_of_lt (s.setPaused b) x h, rfl, rfl⟩
    · refine ⟨_, exec_ldVxMem_of_le s x h, fun b => ?_, State.setRegsFrom_dt .., State.setRegsFrom_st ..⟩
      rw [exec_ldVxMem_of_le (s.setPaused b) x h, State.setRegsFrom_setPaused]
      rfl
  case seImm | sneImm | seReg | sneReg | skp | sknp =>
    exact ⟨_, rfl, fun b => congrArg Host.Outcome.next (s.skipIf_setPaused b _), s.skipIf_dt _, s.skipIf_st _⟩
  all_goals exact ⟨_, rfl, fun _ => rfl, rfl, rfl⟩

/-- The word at `pc` decodes to `i` exactly when what fetch gives does. -/
theorem decodesAtPc_iff {s : State} {i : Instr} : DecodesAtPc s i ↔ s.fetch.bind decodeWord = some i := by
  rw [DecodesAtPc, State.fetch_eq]
  split <;> simp [*]

/-- A tick with PAUSED at any value fetches the same word. -/
theorem step_setPaused (s : State) (b : Bool) :
    step (s.setPaused b) = mapNext State.endTick (runFetched (s.beginTick.setPaused b) s.fetch) := rfl

/-- A tick that executes an instruction ends, whatever PAUSED is, with the timer pass on one and the same state. -/
theorem step_setPaused_of_executes {s t : State} {i : Instr} (hi : DecodesAtPc s i)
    (ht : ExecutesWhateverPaused i s.beginTick t) (b : Bool) : step (s.setPaused b) = .next (t.setPaused b).endTick := by
  obtain ⟨w, hw, hd⟩ := Option.bind_eq_some_iff.1 (decodesAtPc_iff.1 hi)
  simp only [step_setPaused, hw, runFetched, hd, ht.exec_setPaused, mapNext]

/-- A tick that executes no instruction raises, whatever PAUSED is, one and the same report before its timer pass. -/
theorem step_setPaused_of_not_decodesAtPc {s : State} (hno : ∀ i, ¬ DecodesAtPc s i) :
    ∃ r, ∀ b, step (s.setPaused b) = .next ((s.beginTick.raise r).setPaused b).endTick := by
  cases hf : s.fetch with
  | none => exact ⟨.memoryOutOfRange .fetch s.pc, fun b => by rw [step_setPaused, hf]; rfl⟩
  | some w =>
    cases hd : decodeWord w with
    | none =>
      refine ⟨.undefinedOpcode w s.pc, fun b => ?_⟩
      simp only [step_setPaused, hf, runFetched, hd]
      rfl
    | some i => exact absurd (decodesAtPc_iff.2 (by rw [hf]; exact hd)) (hno i)

/-- The end of a tick that is not paused is the end of the paused one with PAUSED off and both timers counted down. -/
theorem State.endTick_setPaused_false (t : State) : (t.setPaused false).endTick =
    (((t.setPaused true).endTick.setPaused false).setDt (countDown t.dt)).setSt (countDown t.st) := rfl

/-- The ends of the paused tick and of the one that is not differ in the timers and PAUSED alone. -/
theorem onlyChanges_endTick_setPaused (t : State) : OnlyChanges (t.setPaused true).endTick (t.setPaused false).endTick
    fun q => q = .dt ∨ q = .st ∨ q = .paused := by
  rw [State.endTick_setPaused_false]
  exact ((onlyChanges_setPaused _ _ (.inr (.inr rfl))).trans (onlyChanges_setDt _ _ (.inl rfl))).trans
    (onlyChanges_setSt _ _ (.inr (.inl rfl)))

/-- The two ticks of one state end with the timer pass on one state `t`, in which an executed instruction has done its
work and, where none is executed, the timers are untouched. -/
theorem exists_step_setPaused (s : State) : ∃ t, (∀ b, step (s.setPaused b) = .next (t.setPaused b).endTick) ∧
    (∀ i, DecodesAtPc s i → ExecutesWhateverPaused i s.beginTick t) ∧
    ((∀ i, ¬ DecodesAtPc s i) → t.dt = s.dt ∧ t.st = s.st) := by
  by_cases hex : ∃ i, DecodesAtPc s i
  · obtain ⟨i, hi⟩ := hex
    obtain ⟨t, ht⟩ := exists_executesWhateverPaused i s.beginTick
    refine ⟨t, step_setPaused_of_executes hi ht, fun j hj => ?_, fun hno => absurd hi (hno i)⟩
    obtain rfl : i = j := Option.some.inj (hi.2.symm.trans hj.2)
    exact ht
  · have hno : ∀ i, ¬ DecodesAtPc s i := not_exists.1 hex
    obtain ⟨r, hr⟩ := step_setPaused_of_not_decodesAtPc hno
    exact ⟨s.beginTick.raise r, hr, fun i hi => absurd hi (hno i), fun _ => ⟨rfl, rfl⟩⟩

/-- Settles O9: phases 1 to 3 of the two ticks give one state `t` but for PAUSED, and only the timer pass tells them
apart. -/
theorem pauseSuppressesOnlyTheTimerPass : Obligations.PauseSuppressesOnlyTheTimerPass := by
  intro s
  obtain ⟨t, hstep, hexec, hnone⟩ := exists_step_setPaused s
  refine ⟨_, hstep true, _, hstep false, rfl, rfl, onlyChanges_endTick_setPaused t, fun i hi => ?_, hnone⟩
  have ht := hexec i hi
  refine ⟨ht.dt_eq, ht.st_eq, ?_⟩
  rintro x rfl
  obtain rfl : (s.beginTick.setReg x s.dt).advance = t := Host.Outcome.next.inj ht.exec_eq
  simp

end Sys2Proof.Machine
end

section
/-! Return from a call (spec/41_control_transfer.md R142). -/

namespace Sys2Proof.Machine

variable {s : State}

/-- Two past a live entry is at most 0x1000: the entry is an address an instruction was fetched from (R142, R144). -/
theorem MachineInv.entry_add_two_le (hinv : MachineInv s) {k : Fin Config.stackDepth} (hk : s.live k) :
    (s.stack[k] + 2).toNat ≤ 0x1000 := by
  have hle : s.stack[k].toNat ≤ 0xFFE := hinv.liveBound k hk
  bv_omega

/-- RET of the entry `k`, the most recent one: SP falls to `k` and pc becomes the entry plus 2. -/
theorem completes_ret_of_succ {k : Fin Config.stackDepth} (h : s.sp.val = k.val + 1) : Completes .ret s fun t =>
    t.pc = s.stack[k] + 2 ∧ (MachineInv s → t.pc.toNat ≤ 0x1000) ∧ t.sp.val = k.val ∧
    OnlyChanges s t fun p => p = .sp ∨ p = .pc := by
  have hlive : s.live k := h.symm.le
  exact ⟨_, exec_ret_of_succ s k h, rfl, fun hinv => hinv.entry_add_two_le hlive, rfl,
    (onlyChanges_setSp s _ (.inl rfl)).trans (onlyChanges_setPc _ _ (.inr rfl))⟩

/-- RET with an empty stack raises `StackUnderflow(pc)` and does nothing else. -/
theorem completes_ret_of_zero (h : s.sp.val = 0) : Completes .ret s fun t =>
    t.pc = s.pc ∧ t.sp = s.sp ∧ t.result = .report (.stackUnderflow s.pc) ∧
    OnlyChanges s t fun p => p = .result ∨ p = .reports :=
  ⟨_, exec_ret_of_zero s h, rfl, rfl, rfl, onlyChanges_raise_of_pc s _ rfl⟩

/-- Settles O22: the stack is not empty or empty, and RET's meaning in each case is its own lemma. -/
theorem returnPopsAndAddsTwo : Obligations.ReturnPopsAndAddsTwo :=
  fun _ => ⟨fun _ h => completes_ret_of_succ h, completes_ret_of_zero, by decide⟩

end Sys2Proof.Machine
end

section
/-! The jumps and the skips on an immediate (spec/41_control_transfer.md R143, R145, R146, R149), and the words of their
classes. -/

namespace Sys2Proof

variable (nnn : Addr12) (x : RegIdx) (kk : Byte)

/-- A word of class 0x1 is JP (30_encoding.md R96). -/
theorem decodeWord_formatA_one : decodeWord (formatA 0x1 nnn) = some (.jp nnn) := by simp [decodeWord]

/-- A word of class 0xB is JP V0 (R96). -/
theorem decodeWord_formatA_eleven : decodeWord (formatA 0xB nnn) = some (.jpV0 nnn) := by simp [decodeWord]

/-- A word of class 0x3 is SE Vx,kk (R96). -/
theorem decodeWord_formatI_three : decodeWord (formatI 0x3 x kk) = some (.seImm x kk) := by simp [decodeWord]

/-- A word of class 0x4 is SNE Vx,kk (R96). -/
theorem decodeWord_formatI_four : decodeWord (formatI 0x4 x kk) = some (.sneImm x kk) := by simp [decodeWord]

end Sys2Proof

namespace Sys2Proof.Machine

variable (s : State)

/-- From a pc beyond 0xFFE nothing is fetched (20_memory.md R66). -/
theorem State.fetch_eq_none_of_lt (h : 0xFFE < s.pc.toNat) : s.fetch = none := by
  have hout : Config.memSize < s.pc.toNat + 2 := Nat.add_lt_add_right h 2
  rw [State.fetch_eq, if_neg (Nat.not_le.2 hout)]

/-- JP jumps to NNN and writes only the pc (R143). -/
theorem completes_jp (nnn : Addr12) : Completes (.jp nnn) s fun t =>
    t.pc.toNat = nnn.toNat ∧ (0xFFE < t.pc.toNat → t.fetch = none) ∧ OnlyChanges s t writesPc :=
  ⟨s.setPc (addrOf nnn), rfl, addrOf_toNat nnn, State.fetch_eq_none_of_lt _, onlyChanges_setPc s _ rfl⟩

/-- JP V0 jumps to NNN + x[0], the exact sum, and writes only the pc (R149). -/
theorem completes_jpV0 (nnn : Addr12) : Completes (.jpV0 nnn) s fun t =>
    t.pc.toNat = nnn.toNat + (s.reg 0x0).toNat ∧ t.pc.toNat ≤ 0x10FE ∧ (0xFFE < t.pc.toNat → t.fetch = none) ∧
    OnlyChanges s t writesPc := by
  have hsum : (addrOf nnn + zext16 (s.reg 0x0)).toNat = nnn.toNat + (s.reg 0x0).toNat := addrOf_add_zext16_toNat nnn _
  have hbound : nnn.toNat + (s.reg 0x0).toNat ≤ 0x10FE := by
    have := nnn.isLt
    have := (s.reg 0x0).isLt
    omega
  exact ⟨s.setPc (addrOf nnn + zext16 (s.reg 0x0)), rfl, hsum, hsum.trans_le hbound, State.fetch_eq_none_of_lt _,
    onlyChanges_setPc s _ rfl⟩

/-- Settles O18: both jumps are one write of the pc, and no sum NNN + x[0] reaches 16 bits. -/
theorem jumpsSetOnlyThePc : Obligations.JumpsSetOnlyThePc := fun s nnn =>
  ⟨completes_jp s nnn, completes_jpV0 s nnn, decodeWord_formatA_one nnn, decodeWord_formatA_eleven nnn⟩

/-- An instruction that skips exactly when `P` holds advances by 4 or by 2 and writes only the pc (10_state.md R29). -/
theorem completes_of_skipIf {i : Instr} {P : Prop} [Decidable P] (h : exec i s = .next (s.skipIf (decide P))) :
    Completes i s fun t => t.pc = (if P then s.pc + 4 else s.pc + 2) ∧ OnlyChanges s t writesPc :=
  ⟨_, h, by simp, onlyChanges_skipIf s _ rfl⟩

/-- Settles O19: both are the conditional skip, on `x[X] = KK` and on its negation. -/
theorem skipsOnAnImmediate : Obligations.SkipsOnAnImmediate := fun s x kk =>
  ⟨completes_of_skipIf s rfl, completes_of_skipIf s rfl, decodeWord_formatI_three x kk, decodeWord_formatI_four x kk⟩

end Sys2Proof.Machine
end

section
/-! The immediate forms, ADD Vx,Vy and SUB Vx,Vy (spec/42_alu.md R161, R162, R167, R168), and their words. -/

namespace Sys2Proof

variable (x y : RegIdx) (kk : Byte)

/-- A word of class 0x6 is LD Vx,kk (30_encoding.md R96). -/
theorem decodeWord_formatI_six : decodeWord (formatI 0x6 x kk) = some (.ldImm x kk) := by simp [decodeWord]

/-- A word of class 0x7 is ADD Vx,kk (R96). -/
theorem decodeWord_formatI_seven : decodeWord (formatI 0x7 x kk) = some (.addImm x kk) := by simp [decodeWord]

/-- A word of class 0x8 is what its sub-opcode w[3:0] makes it (R95). -/
theorem decodeWord_formatR_eight (n : Nibble) : decodeWord (formatR 0x8 x y n) = decodeClass8 x y n := by simp [decodeWord]

end Sys2Proof

namespace Sys2Proof.Machine

/-- The sum of two bytes is taken modulo 256 (42_alu.md R162). -/
theorem sum8_toNat (a b : Byte) : (sum8 a b).toNat = (a.toNat + b.toNat) % 256 := BitVec.toNat_ofNat _ _

/-- The difference of two bytes is the integer difference modulo 256 (R168). -/
theorem diff8_toNat (a b : Byte) : ((diff8 a b).toNat : Int) = ((a.toNat : Int) - b.toNat) % 256 := by
  rw [diff8, BitVec.toNat_ofInt, Int.toNat_of_nonneg (Int.emod_nonneg _ (by decide))]
  rfl

variable (s : State) {i : Instr} {x : RegIdx} {b : Byte}

/-- An instruction that puts a value in x[X] writes no other register and advances by 2. -/
theorem completes_of_setReg (h : exec i s = .next (s.setReg x b).advance) : Completes i s fun t =>
    t.reg x = b ∧ t.pc = s.pc + 2 ∧ OnlyChanges s t (writesReg x) :=
  ⟨_, h, by simp, rfl, onlyChanges_setReg_advance s x b⟩

/-- An instruction that puts a value in x[X] and then in VF whether `P` holds: VF keeps the flag also when it is x[X], and
pc advances by 2 (42_alu.md R160). -/
theorem completes_of_writeResultFlag {P : Prop} [Decidable P]
    (h : exec i s = .next (s.writeResultFlag x b (decide P)).advance) : Completes i s fun t =>
      t.reg 0xF = (if P then 1 else 0) ∧ (x ≠ 0xF → t.reg x = b) ∧ t.pc = s.pc + 2 ∧ OnlyChanges s t (writesRegFlag x) := by
  refine ⟨_, h, ?_, fun hx => ?_, rfl, onlyChanges_writeResultFlag_advance s x b _⟩
  · rw [State.reg_advance, State.reg_writeResultFlag, if_pos rfl]
    simp
  · rw [State.reg_advance, State.reg_writeResultFlag, if_neg hx, if_pos rfl]

/-- Settles O28: the result is the byte sum, and the flag written after it is the carry. -/
theorem addSetsCarry : Obligations.AddSetsCarry := by
  intro s x y
  obtain ⟨t, hexec, hflag, hresult, hpc, hframe⟩ := completes_of_writeResultFlag s (i := .addReg x y) rfl
  refine ⟨⟨t, hexec, hflag, fun hx => ?_, hpc, hframe⟩, decodeWord_formatR_eight x y 0x4⟩
  rw [hresult hx, sum8_toNat]

/-- Settles O29: the result is the byte difference, and the flag written after it is the not-borrow. -/
theorem subSetsNotBorrow : Obligations.SubSetsNotBorrow := by
  intro s x y
  obtain ⟨t, hexec, hflag, hresult, hpc, hframe⟩ := completes_of_writeResultFlag s (i := .subReg x y) rfl
  refine ⟨⟨t, hexec, hflag, fun hx => ?_, hpc, hframe⟩, decodeWord_formatR_eight x y 0x5⟩
  rw [hresult hx, diff8_toNat]

/-- Settles O25: both are one register write, of KK and of the byte sum. -/
theorem loadAndAddImmediate : Obligations.LoadAndAddImmediate := by
  intro s x kk
  obtain ⟨t, hexec, hsum, hpc, hframe⟩ := completes_of_setReg s (i := .addImm x kk) rfl
  refine ⟨completes_of_setReg s rfl, ⟨t, hexec, ?_, hpc, hframe⟩, decodeWord_formatI_six x kk, decodeWord_formatI_seven x kk⟩
  rw [hsum, sum8_toNat]

end Sys2Proof.Machine
end

section
/-! LD I,nnn (spec/43_index_memory.md R190), as one write of the address register, and its word. -/

namespace Sys2Proof

/-- A word of class 0xA is LD I,nnn (30_encoding.md R96). -/
theorem decodeWord_formatA_ten (nnn : Addr12) : decodeWord (formatA 0xA nnn) = some (.ldI nnn) := by simp [decodeWord]

end Sys2Proof

namespace Sys2Proof.Machine

/-- A 12-bit operand as an address is at most 0xFFF (43_index_memory.md R190). -/
theorem addrOf_toNat_le (nnn : Addr12) : (addrOf nnn).toNat ≤ 0xFFF :=
  (addrOf_toNat nnn).trans_le (Nat.le_of_lt_succ nnn.isLt)

variable (s : State)

/-- An address register write and the advance change I and pc. -/
theorem onlyChanges_setI_advance (v : Word) : OnlyChanges s (s.setI v).advance fun p => p = .I ∨ p = .pc :=
  (onlyChanges_setI s v (.inl rfl)).trans (onlyChanges_advance _ (.inr rfl))

/-- An instruction that puts an address in I advances by 2 and writes nothing else. -/
theorem completes_of_setI {i : Instr} {v : Word} (h : exec i s = .next (s.setI v).advance) : Completes i s fun t =>
    t.I = v ∧ t.pc = s.pc + 2 ∧ OnlyChanges s t fun p => p = .I ∨ p = .pc :=
  ⟨_, h, rfl, rfl, onlyChanges_setI_advance s v⟩

/-- Settles O33: LD I,nnn is one write of I, with the operand as an address. -/
theorem loadAddressRegister : Obligations.LoadAddressRegister := by
  intro s nnn
  obtain ⟨t, hexec, hI, hpc, hframe⟩ := completes_of_setI s (i := .ldI nnn) rfl
  refine ⟨⟨t, hexec, ?_, ?_, hpc, hframe⟩, decodeWord_formatA_ten nnn⟩
  · rw [hI, addrOf_toNat]
  · rw [hI]
    exact addrOf_toNat_le nnn

end Sys2Proof.Machine
end

section
/-! The key skips and the timer moves (spec/44_timer_key.md R210 to R216), and the words of classes 0xE and 0xF. -/

namespace Sys2Proof

variable (x : RegIdx) (kk : Byte)

/-- A word of class 0xE is what its sub-opcode w[7:0] makes it (30_encoding.md R95). -/
theorem decodeWord_formatF_fourteen : decodeWord (formatF 0xE x kk) = decodeClassE x kk := by simp [decodeWord]

/-- A word of class 0xF is what its sub-opcode w[7:0] makes it (R95). -/
theorem decodeWord_formatF_fifteen : decodeWord (formatF 0xF x kk) = decodeClassF x kk := by simp [decodeWord]

end Sys2Proof

namespace Sys2Proof.Machine

section KeySkips
variable (s : State) (v : Byte) (x : RegIdx)

/-- `pressed(v)` compares the key held, if one is held, with v modulo 16 (44_timer_key.md R216). -/
theorem State.pressed_eq_decide : s.pressed v = decide (s.key.map BitVec.toNat = some (v.toNat % 16)) := by
  have hlow : (v.extractLsb' 0 4).toNat = v.toNat % 16 := rfl
  have hinj : Function.Injective (Option.map (BitVec.toNat (w := 4))) :=
    Option.map_injective fun _ _ => BitVec.eq_of_toNat_eq
  rw [State.pressed, ← hlow, ← Option.map_some, decide_eq_decide]
  exact hinj.eq_iff.symm

/-- SKP is the conditional skip on the key comparison (R210). -/
theorem exec_skp : exec (.skp x) s =
    .next (s.skipIf (decide (s.key.map BitVec.toNat = some ((s.reg x).toNat % 16)))) := by
  rw [← State.pressed_eq_decide]
  rfl

/-- SKNP is the conditional skip on the negated comparison (R211). -/
theorem exec_sknp : exec (.sknp x) s =
    .next (s.skipIf (decide (¬ s.key.map BitVec.toNat = some ((s.reg x).toNat % 16)))) := by
  rw [decide_not, ← State.pressed_eq_decide]
  rfl

end KeySkips

/-- Settles O41: both are the conditional skip, on the key comparison and on its negation. -/
theorem keySkipsCompareTheLowNibble : Obligations.KeySkipsCompareTheLowNibble := by
  intro s x
  obtain ⟨t, hexec, hpc, hframe⟩ := completes_of_skipIf s (exec_sknp s x)
  exact ⟨completes_of_skipIf s (exec_skp s x), ⟨t, hexec, hpc.trans (ite_not ..), hframe⟩,
    decodeWord_formatF_fourteen x 0x9E, decodeWord_formatF_fourteen x 0xA1⟩

section TimerMoves
variable {s t : State} {i : Instr} {v : Byte}

/-- An instruction that puts a value in DT advances by 2 and writes nothing else. -/
theorem completes_of_setDt (h : exec i s = .next (s.setDt v).advance) : Completes i s fun t =>
    t.dt = v ∧ t.pc = s.pc + 2 ∧ OnlyChanges s t fun p => p = .dt ∨ p = .pc :=
  ⟨_, h, rfl, rfl, (onlyChanges_setDt s v (.inl rfl)).trans (onlyChanges_advance _ (.inr rfl))⟩

/-- An instruction that puts a value in ST advances by 2 and writes nothing else. -/
theorem completes_of_setSt (h : exec i s = .next (s.setSt v).advance) : Completes i s fun t =>
    t.st = v ∧ t.pc = s.pc + 2 ∧ OnlyChanges s t fun p => p = .st ∨ p = .pc :=
  ⟨_, h, rfl, rfl, (onlyChanges_setSt s v (.inl rfl)).trans (onlyChanges_advance _ (.inr rfl))⟩

/-- A countdown lowers the timer by one, not below 0 (40_tick.md R128). -/
theorem countDown_toNat (v : Byte) : (countDown v).toNat = v.toNat - 1 := by
  unfold countDown
  split
  case isTrue h => simp [h]
  case isFalse h => bv_omega

/-- The timer pass leaves DT as it is when paused and lowers it by one, not below 0, otherwise (R128, R129). -/
theorem State.endTick_dt_toNat (t : State) : t.endTick.dt.toNat = if t.paused then t.dt.toNat else t.dt.toNat - 1 := by
  rw [State.endTick_dt, apply_ite BitVec.toNat, countDown_toNat]

/-- The timer pass treats ST as it does DT (R128, R129). -/
theorem State.endTick_st_toNat (t : State) : t.endTick.st.toNat = if t.paused then t.st.toNat else t.st.toNat - 1 := by
  rw [State.endTick_st, apply_ite BitVec.toNat, countDown_toNat]

/-- A tick whose instruction completes in `t` ends with the timer pass on `t` (R132). -/
theorem step_of_exec (hi : DecodesAtPc s i) (h : exec i s.beginTick = .next t) : step s = .next t.endTick := by
  obtain ⟨w, hw, hd⟩ := Option.bind_eq_some_iff.1 (decodesAtPc_iff.1 hi)
  simp only [step, tick, State.fetch_beginTick, hw, runFetched, hd, h, mapNext]

end TimerMoves

/-- Settles O43: each move is one write, and in the whole tick the timer pass comes after it. -/
theorem timerMovesAndTheSameTicksCountdown : Obligations.TimerMovesAndTheSameTicksCountdown := by
  intro s x
  refine ⟨completes_of_setReg s rfl, completes_of_setDt rfl, completes_of_setSt rfl, fun hi => ?_,
    fun hi => ⟨_, step_of_exec hi rfl, State.endTick_dt_toNat _⟩,
    fun hi => ⟨_, step_of_exec hi rfl, State.endTick_st_toNat _⟩,
    decodeWord_formatF_fifteen x 0x07, decodeWord_formatF_fifteen x 0x15, decodeWord_formatF_fifteen x 0x18⟩
  refine ⟨_, step_of_exec hi rfl, ?_, State.endTick_dt_toNat _⟩
  rw [State.reg_endTick, State.reg_advance, State.reg_setReg, if_pos rfl, State.beginTick_dt]

end Sys2Proof.Machine
end

section
/-! CLS (spec/45_display.md R230, R234): the cleared grid, `DRAW_REQ` and the advance, and its word. -/

namespace Sys2Proof

/-- The word 0x00E0 is CLS (30_encoding.md R96). -/
theorem decodeWord_cls : decodeWord 0x00E0 = some .cls := by decide

end Sys2Proof

namespace Sys2Proof.Machine

/-- A new grid, a requested draw and the advance change pixels, `DRAW_REQ` and pc (45_display.md R238). -/
theorem onlyChanges_setGrid_setDrawReq_advance (s : State) (g : Grid) (d : Bool) :
    OnlyChanges s ((s.setGrid g).setDrawReq d).advance
      fun p => p = .pc ∨ p = .drawReq ∨ ∃ r c, p = .pixel r c :=
  have hgrid : OnlyChanges s (s.setGrid g) fun p => p = .pc ∨ p = .drawReq ∨ ∃ r c, p = .pixel r c :=
    onlyChanges_setGrid s g fun r c hp => absurd (.inr (.inr ⟨r, c, rfl⟩)) hp
  (hgrid.trans (onlyChanges_setDrawReq _ d (.inr (.inl rfl)))).trans (onlyChanges_advance _ (.inl rfl))

/-- Settles O45: CLS puts the cleared grid in place, whose cells all read off, requests a draw and advances. -/
theorem clearScreenTurnsEveryCellOff : Obligations.ClearScreenTurnsEveryCellOff := by
  intro s
  have hexec : exec .cls s = .next ((s.setGrid clearGrid).setDrawReq true).advance := rfl
  exact ⟨⟨_, hexec, cell_clearGrid, rfl, rfl, onlyChanges_setGrid_setDrawReq_advance s clearGrid true⟩, decodeWord_cls⟩

end Sys2Proof.Machine
end

section
/-! The words that select no operation (spec/30_encoding.md R95, R98) and the tick on one of them (60_exceptions.md R262). -/

namespace Sys2Proof

variable (x y : RegIdx)

/-- Class 0x8 leaves seven values of w[3:0] undefined (42_alu.md R174). -/
theorem decodeClass8_eq_none_iff {n : Nibble} :
    decodeClass8 x y n = none ↔ n ∈ ([0x8, 0x9, 0xA, 0xB, 0xC, 0xD, 0xF] : List Nibble) := by
  simp only [decodeClass8, ite_eq_iff, reduceCtorEq, and_false, false_or, and_true]
  decide +revert

/-- Class 0xE defines two values of w[7:0] (44_timer_key.md R217). -/
theorem decodeClassE_eq_none_iff {kk : Byte} : decodeClassE x kk = none ↔ kk ∉ ([0x9E, 0xA1] : List Byte) := by
  simp [decodeClassE, ite_eq_iff]

/-- Class 0xF defines nine values of w[7:0] (43_index_memory.md R197). -/
theorem decodeClassF_eq_none_iff {kk : Byte} : decodeClassF x kk = none ↔
    kk ∉ ([0x07, 0x0A, 0x15, 0x18, 0x1E, 0x29, 0x33, 0x55, 0x65] : List Byte) := by
  simp [decodeClassF, ite_eq_iff]

/-- A word is its class, X and the sub-opcode w[7:0] (30_encoding.md R92, format F). -/
theorem formatF_fields (w : Word) : formatF (fieldClass w) (fieldX w) (fieldKK w) = w := formatI_fields w

end Sys2Proof

namespace Sys2Proof.Machine

variable {s : State}

/-- A tick whose word selects no operation raises `UndefinedOpcode` of the word and of where it was fetched (40_tick.md R124). -/
theorem step_of_undefined (hfetch : s.pc.toNat + 2 ≤ Config.memSize) (hword : decodeWord s.fetchedWord = none) :
    step s = .next (s.beginTick.raise (.undefinedOpcode s.fetchedWord s.pc)).endTick := by
  have hf : s.fetch = some s.fetchedWord := by rw [State.fetch_eq, if_pos hfetch]
  simp only [step, tick, State.fetch_beginTick, hf, runFetched, hword, mapNext, State.beginTick_pc]

/-- Raised in a tick, a report leaves the timers to the timer pass, and it is the tick's result. -/
theorem reportTick_outputs (s : State) (r : Report) :
    (s.beginTick.raise r).endTick.pc = pcAfterReport r s.pc ∧ (s.beginTick.raise r).endTick.result = .report r ∧
    (s.beginTick.raise r).endTick.dt = (if s.paused then s.dt else countDown s.dt) ∧
    (s.beginTick.raise r).endTick.st = (if s.paused then s.st else countDown s.st) :=
  ⟨State.endTick_pc _, State.endTick_result _, State.endTick_dt _, State.endTick_st _⟩

/-- A tick whose word selects no operation advances by 2, answers the report and changes nothing else but what every tick
may (R262). -/
theorem ticks_of_undefined (hfetch : s.pc.toNat + 2 ≤ Config.memSize) (hword : decodeWord s.fetchedWord = none) :
    Ticks s fun t => t.pc = s.pc + 2 ∧ t.result = .report (.undefinedOpcode s.fetchedWord s.pc) ∧
      t.dt = (if s.paused then s.dt else countDown s.dt) ∧ t.st = (if s.paused then s.st else countDown s.st) ∧
      OnlyChanges s t fun p => p = .pc ∨ p = .reports ∨ writesAroundExec p := by
  obtain ⟨hpc, hresult, hdt, hst⟩ := reportTick_outputs s (.undefinedOpcode s.fetchedWord s.pc)
  exact ⟨_, step_of_undefined hfetch hword, hpc, hresult, hdt, hst, onlyChanges_reportTick s _⟩

/-- Settles O7: each of the three classes decodes the word by its sub-opcode, which is not among the defined ones. -/
theorem undefinedWordsReportAndAdvance : Obligations.UndefinedWordsReportAndAdvance := by
  intro s hfetch hlisted
  have hword : decodeWord s.fetchedWord = none := by
    rcases hlisted with ⟨hclass, hsub⟩ | ⟨hclass, hsub⟩ | ⟨hclass, hsub⟩
    · rw [← formatR_fields s.fetchedWord, hclass, decodeWord_formatR_eight, decodeClass8_eq_none_iff]
      exact hsub
    · rw [← formatF_fields s.fetchedWord, hclass, decodeWord_formatF_fourteen, decodeClassE_eq_none_iff]
      exact hsub
    · rw [← formatF_fields s.fetchedWord, hclass, decodeWord_formatF_fifteen, decodeClassF_eq_none_iff]
      exact hsub
  exact ⟨hword, ticks_of_undefined hfetch hword⟩

end Sys2Proof.Machine
end

section
/-! What the execute phase of each instruction may write, and where it leaves pc (spec/10_state.md R25, R29,
60_exceptions.md R268). -/

namespace Sys2Proof.Machine

/-- Where an instruction leaves pc (10_state.md R29): the target of a transfer, a skip, an advance, or pc itself where
it reports or waits. -/
def LeavesPc (i : Instr) (s : State) (pc : Word) : Prop :=
  match i with
  | .jp nnn => pc.toNat = nnn.toNat
  | .jpV0 nnn => pc.toNat = nnn.toNat + (s.reg 0x0).toNat
  | .call nnn => pc.toNat = nnn.toNat ∨ (s.sp.val = 16 ∧ pc = s.pc)
  | .ret => (∃ k : Fin 16, s.sp.val = k.val + 1 ∧ pc = s.stack[k] + 2) ∨ (s.sp.val = 0 ∧ pc = s.pc)
  | .seImm _ _ | .sneImm _ _ | .seReg _ _ | .sneReg _ _ | .skp _ | .sknp _ => pc = s.pc + 4 ∨ pc = s.pc + 2
  | .ldVxK _ => pc = (if s.key = none then s.pc else s.pc + 2)
  | .ldB _ => pc = (if s.I.toNat + 3 ≤ 4096 then s.pc + 2 else s.pc)
  | .ldMemVx x | .ldVxMem x => pc = (if s.I.toNat + x.toNat + 1 ≤ 4096 then s.pc + 2 else s.pc)
  | _ => pc = s.pc + 2

/-- From `s` to `t` each part of the state is written only if `i` is one of the instructions that may write it. -/
structure WritesOwnParts (i : Instr) (s t : State) : Prop where
  key : t.key = s.key
  paused : t.paused = s.paused
  randIn : t.randIn = s.randIn
  display : i ≠ .cls → (∀ x y n, i ≠ .drw x y n) → t.grid = s.grid ∧ t.drawReq = s.drawReq
  stack : (∀ nnn, i ≠ .call nnn) → t.stack = s.stack ∧ (i ≠ .ret → t.sp = s.sp)
  mem : (∀ x, i ≠ .ldB x) → (∀ x, i ≠ .ldMemVx x) → t.mem = s.mem
  I : (∀ nnn, i ≠ .ldI nnn) → (∀ x, i ≠ .addI x) → (∀ x, i ≠ .ldF x) → t.I = s.I
  dt : (∀ x, i ≠ .ldDtVx x) → t.dt = s.dt
  st : (∀ x, i ≠ .ldStVx x) → t.st = s.st
  reg : ∀ r, regWrites i r = false → t.reg r = s.reg r
  report : mayReport i = false → t.result = s.result ∧ t.reports = s.reports
  randCount : (∀ x kk, i ≠ .rnd x kk) → t.randCount = s.randCount
  pc : LeavesPc i s t.pc

variable (s : State) {i : Instr}

/-- A report writes what an instruction that may report may write, and leaves pc where the report says. -/
theorem writesOwnParts_raise (r : Report) (hmay : mayReport i = true) (hpc : LeavesPc i s (pcAfterReport r s.pc)) :
    WritesOwnParts i s (s.raise r) := by
  constructor <;> simp [*]

/-- An update of the registers and pc writes what an instruction with those destinations may write. -/
theorem writesOwnParts_setX_setPc {v : Vector Byte Config.numRegs} {pc : Word}
    (hreg : ∀ r, regWrites i r = false → (s.setX v).reg r = s.reg r) (hpc : LeavesPc i s pc) :
    WritesOwnParts i s ((s.setX v).setPc pc) := by
  constructor
  case reg => exact hreg
  case pc => exact hpc
  all_goals simp

/-- A write of pc alone. -/
theorem writesOwnParts_setPc {pc : Word} (hpc : LeavesPc i s pc) : WritesOwnParts i s (s.setPc pc) :=
  writesOwnParts_setX_setPc s (v := s.x) (fun _ _ => rfl) hpc

/-- A conditional skip. -/
theorem writesOwnParts_skipIf (c : Bool) (hpc : ∀ pc, pc = s.pc + 4 ∨ pc = s.pc + 2 → LeavesPc i s pc) :
    WritesOwnParts i s (s.skipIf c) := by
  cases c
  case false => exact writesOwnParts_setPc s (hpc _ (.inr rfl))
  case true => exact writesOwnParts_setPc s (hpc _ (.inl rfl))

/-- A register write and the advance, of an instruction with that destination. -/
theorem writesOwnParts_setReg_advance {x : RegIdx} {b : Byte} (hx : ∀ r, regWrites i r = false → r ≠ x)
    (hpc : LeavesPc i s (s.pc + 2)) : WritesOwnParts i s (s.setReg x b).advance :=
  writesOwnParts_setX_setPc s (fun r hr => (State.reg_setReg s x r b).trans (if_neg (hx r hr))) hpc

/-- A result, its flag and the advance, of a flag writer with that destination. -/
theorem writesOwnParts_writeResultFlag_advance {x : RegIdx} {b : Byte} {f : Bool}
    (hx : ∀ r, regWrites i r = false → r ≠ x ∧ r ≠ Config.flagReg) (hpc : LeavesPc i s (s.pc + 2)) :
    WritesOwnParts i s (s.writeResultFlag x b f).advance := by
  refine writesOwnParts_setX_setPc s (fun r hr => ?_) hpc
  obtain ⟨hrx, hrf⟩ := hx r hr
  exact (State.reg_writeResultFlag s x r b f).trans ((if_neg hrf).trans (if_neg hrx))

/-- A register above X is none of those LD Vx,[I] writes. -/
theorem reg_setRegsFrom_of_not_regWrites {x r : RegIdx} {bs : List Byte} (hbs : bs.length = rangeCount x)
    (hr : regWrites (.ldVxMem x) r = false) : (s.setRegsFrom 0 bs).reg r = s.reg r := by
  have hlt : x < r := by simpa [regWrites] using hr
  rw [BitVec.lt_def] at hlt
  have hx := x.isLt
  rw [State.reg_setRegsFrom _ _ _ _ (by simp only [hbs, rangeCount]; omega),
    if_neg (by simp only [hbs, rangeCount]; omega)]

/-- The execute phase of every instruction writes only its own parts. -/
theorem exec_writesOwnParts (i : Instr) : ∃ t, exec i s = .next t ∧ WritesOwnParts i s t := by
  cases i
  case sys => exact ⟨_, rfl, writesOwnParts_raise s _ rfl rfl⟩
  case ret =>
    rcases s.sp_cases with h | ⟨k, h⟩
    · exact ⟨_, exec_ret_of_zero s h, writesOwnParts_raise s _ rfl (.inr ⟨h, rfl⟩)⟩
    · refine ⟨_, exec_ret_of_succ s k h, ?_⟩
      constructor
      case pc => exact .inl ⟨k, h, rfl⟩
      all_goals simp
  case call nnn =>
    rcases s.sp_full_or_lt with h | h
    · exact ⟨_, exec_call_of_full s nnn h, writesOwnParts_raise s _ rfl (.inr ⟨h, rfl⟩)⟩
    · refine ⟨_, exec_call_of_lt s nnn h, ?_⟩
      constructor
      case pc => exact .inl (addrOf_toNat nnn)
      all_goals simp
  case ldVxK x =>
    cases h : s.key with
    | none => exact ⟨_, exec_ldVxK_of_none s x h, by constructor <;> simp [LeavesPc, h]⟩
    | some k =>
      have hpc : LeavesPc (.ldVxK x) s (s.pc + 2) := by simp [LeavesPc, h]
      exact ⟨_, exec_ldVxK_of_some s x k h, writesOwnParts_setReg_advance s (by simp [regWrites]) hpc⟩
  case ldB x =>
    rcases Nat.lt_or_ge Config.memSize (s.I.toNat + 3) with h | h
    · exact ⟨_, exec_ldB_of_lt s x h, writesOwnParts_raise s _ rfl (if_neg (Nat.not_le.2 h)).symm⟩
    · refine ⟨_, exec_ldB_of_le s x h, ?_⟩
      constructor
      case pc => exact (if_pos h).symm
      all_goals simp
  case ldMemVx x =>
    rcases Nat.lt_or_ge Config.memSize (s.I.toNat + rangeCount x) with h | h
    · exact ⟨_, exec_ldMemVx_of_lt s x h, writesOwnParts_raise s _ rfl (if_neg (Nat.not_le.2 h)).symm⟩
    · refine ⟨_, exec_ldMemVx_of_le s x h, ?_⟩
      constructor
      case pc => exact (if_pos h).symm
      all_goals simp
  case ldVxMem x =>
    rcases Nat.lt_or_ge Config.memSize (s.I.toNat + rangeCount x) with h | h
    · exact ⟨_, exec_ldVxMem_of_lt s x h, writesOwnParts_raise s _ rfl (if_neg (Nat.not_le.2 h)).symm⟩
    · refine ⟨_, exec_ldVxMem_of_le s x h, ?_⟩
      constructor
      case reg => exact fun r => reg_setRegsFrom_of_not_regWrites s (Memory.length_readBytes ..)
      case pc => exact (congrArg (· + 2) (State.setRegsFrom_pc s 0 _)).trans (if_pos h).symm
      all_goals simp
  case seImm | sneImm | seReg | sneReg | skp | sknp => exact ⟨_, rfl, writesOwnParts_skipIf s _ fun _ h => h⟩
  case ldImm | addImm | ldReg | orReg | andReg | ldVxDt =>
    exact ⟨_, rfl, writesOwnParts_setReg_advance s (by simp [regWrites]) rfl⟩
  case xorReg | addReg | subReg | shr | subnReg | shl =>
    exact ⟨_, rfl, writesOwnParts_writeResultFlag_advance s (by simp [regWrites]) rfl⟩
  case jp nnn => exact ⟨_, rfl, writesOwnParts_setPc s (addrOf_toNat nnn)⟩
  case jpV0 nnn => exact ⟨_, rfl, writesOwnParts_setPc s (addrOf_add_zext16_toNat nnn _)⟩
  case cls | ldI | addI | ldF | ldDtVx | ldStVx => exact ⟨_, rfl, by constructor <;> simp [LeavesPc]⟩
  case rnd | drw => exact ⟨_, rfl, by constructor <;> simp +contextual [LeavesPc, regWrites]⟩

/-- Settles O49: each conjunct is a field of `WritesOwnParts`. -/
theorem eachPartIsWrittenOnlyByItsInstructions : Obligations.EachPartIsWrittenOnlyByItsInstructions := by
  intro i s
  obtain ⟨t, hexec, h⟩ := exec_writesOwnParts s i
  exact ⟨t, hexec, h.key, h.paused, h.randIn, h.display, h.stack, h.mem, h.I, h.dt, h.st, h.reg, h.report, h.randCount,
    h.pc⟩

end Sys2Proof.Machine
end

section
/-! The invariant of a tick and of the host's operations (spec/10_state.md R30, 41_control_transfer.md R142, R144,
70_reset_and_hazards.md R308). -/

namespace Sys2Proof.Machine

variable {s t : State} {i : Instr}

/-- An outcome has one next state. -/
theorem eq_of_next {o : Out} (h : o = .next s) (h' : o = .next t) : s = t := Host.Outcome.next.inj (h.symm.trans h')

/-- An instruction's next state is the one for which its parts are known. -/
theorem writesOwnParts_of_exec (h : exec i s = .next t) : WritesOwnParts i s t := by
  obtain ⟨u, hu, hparts⟩ := exec_writesOwnParts s i
  obtain rfl := eq_of_next hu h
  exact hparts

/-- The invariant speaks of memory, pc, the stack and SP alone. -/
theorem MachineInv.congr (hinv : MachineInv s) (hmem : t.mem = s.mem) (hpc : t.pc = s.pc) (hstack : t.stack = s.stack)
    (hsp : t.sp = s.sp) : MachineInv t where
  memWf := hmem ▸ hinv.memWf
  pcBound := hpc ▸ hinv.pcBound
  liveBound k hk := by
    rw [hstack]
    exact hinv.liveBound k (by rwa [State.live, hsp] at hk)

/-- The invariant in a state that differs in pc, for a pc in its bound. -/
theorem MachineInv.setPc (hinv : MachineInv s) {pc : Word} (hpc : pc.toNat ≤ 0x10FE) : MachineInv (s.setPc pc) :=
  ⟨hinv.memWf, hpc, hinv.liveBound⟩

/-- The beginning of a tick keeps the invariant. -/
theorem MachineInv.beginTick (hinv : MachineInv s) : MachineInv s.beginTick := hinv.congr rfl rfl rfl rfl

/-- The end of a tick keeps the invariant. -/
theorem MachineInv.endTick (hinv : MachineInv s) : MachineInv s.endTick :=
  hinv.congr (by simp) (by simp) (by simp) (by simp)

/-- A report keeps the invariant when it leaves pc in its bound. -/
theorem MachineInv.raise (hinv : MachineInv s) {r : Report} (hpc : (pcAfterReport r s.pc).toNat ≤ 0x10FE) :
    MachineInv (s.raise r) :=
  (hinv.setPc hpc).congr rfl rfl rfl rfl

/-- Storing at `I` keeps the canonical form: what does not fit is not stored. -/
theorem State.storeAtI_memWf (hm : s.mem.wf) (bytes : List Byte) : (s.storeAtI bytes).mem.wf := by
  rcases Nat.lt_or_ge Config.memSize (s.I.toNat + bytes.length) with h | h
  · rw [State.storeAtI_of_lt s bytes h]
    exact hm
  · rw [State.storeAtI_of_le s bytes h]
    exact Memory.writeBytes_wf hm h

/-- Every instruction keeps memory in its canonical form: LD B and LD [I],Vx store at `I`, the others leave it. -/
theorem exec_memWf (hm : s.mem.wf) (h : exec i s = .next t) : t.mem.wf := by
  have hstore {bytes : List Byte} (he : exec i s = .next (s.storeAtI bytes)) : t.mem.wf :=
    eq_of_next he h ▸ State.storeAtI_memWf hm bytes
  by_cases hB : ∃ x, i = .ldB x
  · obtain ⟨x, rfl⟩ := hB
    exact hstore rfl
  · by_cases hM : ∃ x, i = .ldMemVx x
    · obtain ⟨x, rfl⟩ := hM
      exact hstore rfl
    · rw [(writesOwnParts_of_exec h).mem (not_exists.1 hB) (not_exists.1 hM)]
      exact hm

/-- From an address with a fetch in range no instruction leaves pc beyond 0x10FE, the largest target of JP V0
(10_state.md R30). -/
theorem LeavesPc.toNat_le {pc : Word} (h : LeavesPc i s pc) (hinv : MachineInv s) (hfetch : s.pc.toNat + 2 ≤ 4096) :
    pc.toNat ≤ 0x10FE := by
  have hstay : s.pc.toNat ≤ 0x10FE := by omega
  have hadvance : (s.pc + 2).toNat ≤ 0x10FE := by bv_omega
  have hskip : (s.pc + 4).toNat ≤ 0x10FE := by bv_omega
  cases i
  case jp nnn =>
    have hnnn := nnn.isLt
    have hpc : pc.toNat = nnn.toNat := h
    omega
  case jpV0 nnn =>
    have hnnn := nnn.isLt
    have hreg := (s.reg 0x0).isLt
    have hpc : pc.toNat = nnn.toNat + (s.reg 0x0).toNat := h
    omega
  case call nnn =>
    have hnnn := nnn.isLt
    rcases h with h | ⟨-, rfl⟩
    · omega
    · exact hstay
  case ret =>
    rcases h with ⟨k, hk, rfl⟩ | ⟨-, rfl⟩
    · exact (hinv.entry_add_two_le hk.symm.le).trans (by decide)
    · exact hstay
  case seImm | sneImm | seReg | sneReg | skp | sknp =>
    rcases h with rfl | rfl
    · exact hskip
    · exact hadvance
  case ldVxK | ldB | ldMemVx | ldVxMem =>
    simp only [LeavesPc] at h
    split at h <;> subst h <;> assumption
  all_goals exact (congrArg BitVec.toNat h).trans_le hadvance

/-- Every instruction at an address with a fetch in range keeps the live stack entries such addresses: CALL pushes its
own, RET leaves fewer live, the others leave stack and SP. -/
theorem exec_liveBound (hinv : MachineInv s) (hfetch : s.pc.toNat + 2 ≤ 4096) (h : exec i s = .next t)
    (k : Fin Config.stackDepth) (hk : t.live k) : t.stack[k].toNat ≤ 0xFFE := by
  by_cases hcall : ∃ nnn, i = .call nnn
  · obtain ⟨nnn, rfl⟩ := hcall
    rcases s.sp_full_or_lt with hfull | hlt
    · obtain rfl := eq_of_next (exec_call_of_full s nnn hfull) h
      exact hinv.liveBound k hk
    · obtain rfl := eq_of_next (exec_call_of_lt s nnn hlt) h
      have hentry : (s.stack.set s.sp.val s.pc hlt)[k] = if s.sp.val = k.val then s.pc else s.stack[k] :=
        Vector.getElem_set ..
      have hk' : k.val < s.sp.val + 1 := hk
      show (s.stack.set s.sp.val s.pc hlt)[k].toNat ≤ 0xFFE
      rw [hentry]
      split
      · omega
      · exact hinv.liveBound k (by rw [State.live]; omega)
  · obtain ⟨hstack, hsp⟩ := (writesOwnParts_of_exec h).stack (not_exists.1 hcall)
    rw [hstack]
    refine hinv.liveBound k ?_
    by_cases hret : i = .ret
    · subst hret
      rcases s.sp_cases with h0 | ⟨j, hj⟩
      · obtain rfl := eq_of_next (exec_ret_of_zero s h0) h
        exact hk
      · obtain rfl := eq_of_next (exec_ret_of_succ s j hj) h
        have hkj : k.val < j.val := hk
        rw [State.live]
        omega
    · rwa [State.live, hsp hret] at hk

/-- Every instruction at an address with a fetch in range keeps the invariant. -/
theorem MachineInv.of_exec (hinv : MachineInv s) (hfetch : s.pc.toNat + 2 ≤ 4096) (h : exec i s = .next t) :
    MachineInv t where
  memWf := exec_memWf hinv.memWf h
  pcBound := (writesOwnParts_of_exec h).pc.toNat_le hinv hfetch
  liveBound := exec_liveBound hinv hfetch h

/-- Every tick keeps the invariant, in each of the three ways it can go. -/
theorem MachineInv.of_step (hinv : MachineInv s) (h : step s = .next t) : MachineInv t := by
  rcases tick_cases s with ⟨-, htick⟩ | ⟨hfetch, -, htick⟩ | ⟨hfetch, i, -, htick⟩
  · obtain rfl := eq_of_next htick h
    exact (hinv.beginTick.raise (r := .memoryOutOfRange .fetch s.pc) hinv.pcBound).endTick
  · obtain rfl := eq_of_next htick h
    have hle : s.pc.toNat + 2 ≤ 4096 := hfetch
    have hadvance : (s.pc + 2).toNat ≤ 0x10FE := by bv_omega
    exact (hinv.beginTick.raise (r := .undefinedOpcode s.fetchedWord s.pc) hadvance).endTick
  · obtain ⟨u, hexec, rfl⟩ := mapNext_eq_next.1 (htick.symm.trans h)
    exact (hinv.beginTick.of_exec hfetch hexec).endTick

/-- Settles O3: the three ways a tick can go, each by its own lemma. -/
theorem everyTickKeepsTheInvariant : Obligations.EveryTickKeepsTheInvariant := fun _ _ => MachineInv.of_step

/-- Settles O2: nothing is listed in memory and no stack entry is live. -/
theorem invariantHoldsAtReset : Obligations.InvariantHoldsAtReset where
  memWf := by decide
  pcBound := by decide
  liveBound k hk := absurd hk (Nat.not_lt_zero k.val)

/-- A load keeps the canonical form: what does not fit is not copied (20_memory.md R79). -/
theorem MachineInv.hostLoad (hinv : MachineInv s) (bytes : List Byte) (offset : Nat) :
    MachineInv (s.hostLoad bytes offset) := by
  by_cases hfit : offset + bytes.length ≤ Config.memSize
  · rw [State.hostLoad_of_fits hfit]
    exact ⟨Memory.writeBytes_wf hinv.memWf hfit, hinv.pcBound, hinv.liveBound⟩
  · rw [State.hostLoad, inRange, decide_eq_false hfit]
    exact hinv.congr rfl rfl rfl rfl

/-- Settles O57: `hostInit` gives the reset values, a load keeps the canonical form, a tick is a step, and the others
touch neither memory nor pc nor the stack. -/
theorem everyHostOperationKeepsTheInvariant : Obligations.EveryHostOperationKeepsTheInvariant := by
  intro op s t hinv h
  cases op with
  | init =>
    obtain rfl := Host.Outcome.next.inj h
    exact invariantHoldsAtReset.congr rfl rfl rfl rfl
  | load bytes offset =>
    obtain rfl := Host.Outcome.next.inj h
    exact hinv.hostLoad bytes offset
  | tick r => exact MachineInv.of_step (hinv.congr (t := s.setRandIn (some r)) rfl rfl rfl rfl) h
  | keyDown code =>
    simp only [hostStep, State.hostKeyDown] at h
    split at h
    · obtain rfl := Host.Outcome.next.inj h
      exact hinv.congr rfl rfl rfl rfl
    · cases h
  | pause | resume | stop | keyUp =>
    obtain rfl := Host.Outcome.next.inj h
    exact hinv.congr rfl rfl rfl rfl

/-- Settles O4: by induction on the execution, with the two step lemmas. -/
theorem reachableStatesMeetTheInvariant : Obligations.ReachableStatesMeetTheInvariant := by
  intro s hs
  induction hs with
  | reset => exact invariantHoldsAtReset
  | host op _ hstep ih => exact everyHostOperationKeepsTheInvariant op _ _ ih hstep
  | tick _ hstep ih => exact everyTickKeepsTheInvariant _ _ ih hstep

end Sys2Proof.Machine
end

section
/-! Which report an instruction raises, what a tick that reports leaves, and that every tick answers a next state
(spec/40_tick.md R127, R134, 60_exceptions.md R260 to R271). -/

namespace Sys2Proof.Machine

/-- The report an instruction raises in a state, if it raises one (60_exceptions.md R268). -/
def raisedBy (i : Instr) (s : State) : Option Report :=
  match i with
  | .sys nnn => some (.undefinedOpcode (0x0#4 ++ nnn) s.pc)
  | .ret => if s.sp.val = 0 then some (.stackUnderflow s.pc) else none
  | .call _ => if s.sp.val = 16 then some (.stackOverflow s.pc) else none
  | .ldB _ => if s.I.toNat + 3 ≤ 4096 then none else some (.memoryOutOfRange .data s.I)
  | .ldMemVx x | .ldVxMem x => if s.I.toNat + x.toNat + 1 ≤ 4096 then none else some (.memoryOutOfRange .data s.I)
  | _ => none

variable {s t : State} {i : Instr}

/-- Every instruction raises the report of `raisedBy` and does nothing else, or, where that is none, raises none. -/
theorem exec_of_raisedBy (i : Instr) (s : State) : (∃ r, raisedBy i s = some r ∧ exec i s = .next (s.raise r)) ∨
    (raisedBy i s = none ∧ ∃ t, exec i s = .next t ∧ t.result = s.result ∧ t.reports = s.reports) := by
  by_cases hmay : mayReport i = true
  case neg =>
    obtain ⟨t, hexec, hparts⟩ := exec_writesOwnParts s i
    have hnone : raisedBy i s = none := by
      cases i
      case sys | ret | call | ldB | ldMemVx | ldVxMem => exact absurd rfl hmay
      all_goals rfl
    exact .inr ⟨hnone, t, hexec, hparts.report (by simpa using hmay)⟩
  case pos =>
    cases i
    case sys => exact .inl ⟨_, rfl, rfl⟩
    case ret =>
      rcases s.sp_cases with h | ⟨k, h⟩
      · exact .inl ⟨_, if_pos h, exec_ret_of_zero s h⟩
      · exact .inr ⟨if_neg (by omega), _, exec_ret_of_succ s k h, rfl, rfl⟩
    case call nnn =>
      rcases s.sp_full_or_lt with h | h
      · exact .inl ⟨_, if_pos h, exec_call_of_full s nnn h⟩
      · exact .inr ⟨if_neg h.ne, _, exec_call_of_lt s nnn h, rfl, rfl⟩
    case ldB x =>
      rcases Nat.lt_or_ge Config.memSize (s.I.toNat + 3) with h | h
      · exact .inl ⟨_, if_neg (Nat.not_le.2 h), exec_ldB_of_lt s x h⟩
      · exact .inr ⟨if_pos h, _, exec_ldB_of_le s x h, rfl, rfl⟩
    case ldMemVx x =>
      rcases Nat.lt_or_ge Config.memSize (s.I.toNat + rangeCount x) with h | h
      · exact .inl ⟨_, if_neg (Nat.not_le.2 h), exec_ldMemVx_of_lt s x h⟩
      · exact .inr ⟨if_pos h, _, exec_ldMemVx_of_le s x h, rfl, rfl⟩
    case ldVxMem x =>
      rcases Nat.lt_or_ge Config.memSize (s.I.toNat + rangeCount x) with h | h
      · exact .inl ⟨_, if_neg (Nat.not_le.2 h), exec_ldVxMem_of_lt s x h⟩
      · exact .inr ⟨if_pos h, _, exec_ldVxMem_of_le s x h, State.setRegsFrom_result .., State.setRegsFrom_reports ..⟩
    all_goals cases hmay

/-- The result after the execute phase: the report raised, or the result there was. -/
theorem exec_result (h : exec i s = .next t) :
    t.result = (raisedBy i s).elim s.result .report := by
  rcases exec_of_raisedBy i s with ⟨r, hr, hexec⟩ | ⟨hr, u, hexec, hresult, -⟩
  · obtain rfl := eq_of_next hexec h
    rw [hr]
    rfl
  · obtain rfl := eq_of_next hexec h
    rw [hr]
    exact hresult

/-- Settles O11: the result is the one `raisedBy` names. -/
theorem reportsAriseExactlyWhereNamed : Obligations.ReportsAriseExactlyWhereNamed := by
  intro i s _ hok
  obtain ⟨t, hexec, -⟩ := exec_writesOwnParts s i
  refine ⟨t, hexec, (exec_result hexec).trans ?_⟩
  rw [hok]
  cases i
  case ret | call | ldB | ldMemVx | ldVxMem => simp only [raisedBy]; split_ifs <;> rfl
  all_goals rfl

/-- What an instruction raises depends on pc, SP and I alone. -/
theorem raisedBy_congr (i : Instr) (hpc : t.pc = s.pc) (hsp : t.sp = s.sp) (hI : t.I = s.I) :
    raisedBy i t = raisedBy i s := by
  cases i
  case sys | ret | call | ldB | ldMemVx | ldVxMem => simp only [raisedBy, hpc, hsp, hI]
  all_goals rfl

/-- The report a tick raises, if it raises one: the fetch's, the undefined word's, or the executed instruction's. -/
def tickRaises (s : State) : Option Report :=
  match s.fetch with
  | none => some (.memoryOutOfRange .fetch s.pc)
  | some w =>
    match decodeWord w with
    | none => some (.undefinedOpcode w s.pc)
    | some i => raisedBy i s

/-- What a tick raises depends on memory, pc, SP and I alone. -/
theorem tickRaises_congr (hmem : t.mem = s.mem) (hpc : t.pc = s.pc) (hsp : t.sp = s.sp) (hI : t.I = s.I) :
    tickRaises t = tickRaises s := by
  have hfetch : t.fetch = s.fetch := by simp only [State.fetch, State.fetchedWord, hmem, hpc]
  simp only [tickRaises, hfetch, hpc, raisedBy_congr _ hpc hsp hI]

/-- A tick raises the report of `tickRaises` and does nothing else before its timer pass, or, where that is none, it
raises none (60_exceptions.md R260). -/
theorem step_of_tickRaises (s : State) :
    (∃ r, tickRaises s = some r ∧ step s = .next (s.beginTick.raise r).endTick) ∨
    (tickRaises s = none ∧ ∃ t, step s = .next t ∧ t.result = .ok ∧ t.reports = s.reports) := by
  simp only [tickRaises, step, tick, State.fetch_beginTick]
  cases s.fetch with
  | none => exact .inl ⟨_, rfl, rfl⟩
  | some w =>
    simp only [runFetched]
    cases decodeWord w with
    | none => exact .inl ⟨_, rfl, rfl⟩
    | some i =>
      have hbegin : raisedBy i s.beginTick = raisedBy i s := raisedBy_congr i rfl rfl rfl
      simp only [← hbegin]
      rcases exec_of_raisedBy i s.beginTick with ⟨r, hr, hexec⟩ | ⟨hr, t, hexec, hresult, hreports⟩
      · exact .inl ⟨r, hr, by rw [hexec]; rfl⟩
      · exact .inr ⟨hr, t.endTick, by rw [hexec]; rfl, by simp [hresult], by simp [hreports]⟩

/-- Settles O5: whether it reports or not, a tick answers a next state. -/
theorem everyTickReturnsANextState : Obligations.EveryTickReturnsANextState := by
  intro s
  rcases step_of_tickRaises s with ⟨r, -, h⟩ | ⟨-, t, h, -⟩
  · exact ⟨_, h⟩
  · exact ⟨t, h⟩

/-- `UndefinedOpcode`, the report of cause code 1, alone advances pc (60_exceptions.md R262 to R267). -/
theorem pcAfterReport_eq_ite (r : Report) (pc : Word) :
    pcAfterReport r pc = if reportCode r = 1 then pc + 2 else pc := by cases r <;> rfl

/-- Settles O10: a tick that raises a report does nothing else before its timer pass. -/
theorem reportsArePreciseAndAtMostOne : Obligations.ReportsArePreciseAndAtMostOne := by
  intro s
  rcases step_of_tickRaises s with ⟨r, -, h⟩ | ⟨-, t, h, hresult, hreports⟩
  · obtain ⟨hpc, hresult, hdt, hst⟩ := reportTick_outputs s r
    refine ⟨_, h, ?_⟩
    simp only [hresult]
    exact ⟨State.endTick_reports _, hpc.trans (pcAfterReport_eq_ite r s.pc), State.endTick_drawReq _, hdt, hst,
      onlyChanges_reportTick s r⟩
  · refine ⟨t, h, ?_⟩
    simp only [hresult]
    exact hreports

/-- Settles O8: the one report of such a tick is the fetch's, and it leaves pc. -/
theorem fetchOutOfRangeReportsAndStays : Obligations.FetchOutOfRangeReportsAndStays := by
  intro s h
  have hfetch : s.fetch = none := State.fetch_eq_none_of_lt s (by omega)
  have hstep : step s = .next (s.beginTick.raise (.memoryOutOfRange .fetch s.pc)).endTick := by
    simp only [step, tick, State.fetch_beginTick, hfetch, runFetched, mapNext, State.beginTick_pc]
  obtain ⟨hpc, hresult, hdt, hst⟩ := reportTick_outputs s (.memoryOutOfRange .fetch s.pc)
  refine ⟨_, hstep, hpc, hresult, State.endTick_reports _, State.endTick_drawReq _, hdt, hst, fun p hp => ?_⟩
  by_cases hp' : p = .pc
  · subst hp'
    exact hpc
  · exact onlyChanges_reportTick s _ p (by tauto)

/-- Settles O12: the tick after such a report meets the memory, pc, SP and I of the tick that raised it. -/
theorem otherReportsRepeatEveryTick : Obligations.OtherReportsRepeatEveryTick := by
  intro s r hcode
  rcases step_of_tickRaises s with ⟨r', hraises, h⟩ | ⟨-, t, h, hok, -⟩
  · refine ⟨_, h, fun hresult => ?_⟩
    obtain rfl : r' = r := by simpa using hresult
    have hpc : (s.beginTick.raise r').endTick.pc = s.pc := by simp [pcAfterReport_eq_ite, hcode]
    have hagain : tickRaises (s.beginTick.raise r').endTick = some r' := by
      rw [tickRaises_congr (s := s) (by simp) hpc (by simp) (by simp), hraises]
    rcases step_of_tickRaises (s.beginTick.raise r').endTick with ⟨r, hr, hu⟩ | ⟨hr, -⟩
    · obtain rfl : r = r' := Option.some.inj (hr.symm.trans hagain)
      exact ⟨_, hu, State.endTick_result _⟩
    · cases hr.symm.trans hagain
  · exact ⟨t, h, fun hresult => by cases hok.symm.trans hresult⟩

end Sys2Proof.Machine
end

section
/-! The parts that the execute phase does not read: ST, the stale stack entries and, but for RND, the random input
(spec/10_state.md sections 5, 6 and 9, 40_tick.md section 3). -/

namespace Sys2Proof.Machine

/-- Four parts of the state mapped: the stack array, ST, the presented random byte and the index of the free one. -/
def State.mapUnread (stack : Vector Word Config.stackDepth → Vector Word Config.stackDepth) (st : Byte → Byte)
    (randIn : Option Byte → Option Byte) (randCount : Nat → Nat) (s : State) : State :=
  (((s.setStack (stack s.stack)).setSt (st s.st)).setRandIn (randIn s.randIn)).setRandCount (randCount s.randCount)

section MapUnread
variable (f : Vector Word Config.stackDepth → Vector Word Config.stackDepth) (g : Byte → Byte)
  (p : Option Byte → Option Byte) (q : Nat → Nat) (s : State)

/-- A run of registers is written the same whatever the four parts hold. -/
theorem State.setRegsFrom_mapUnread (k : Nat) (bs : List Byte) :
    (s.mapUnread f g p q).setRegsFrom k bs = (s.setRegsFrom k bs).mapUnread f g p q := by
  induction bs generalizing s k with
  | nil => rfl
  | cons b bs ih => exact ih (s.setReg (BitVec.ofNat 4 k) b) (k + 1)

/-- A conditional skip is the same whatever the four parts hold. -/
theorem State.skipIf_mapUnread (c : Bool) : (s.mapUnread f g p q).skipIf c = (s.skipIf c).mapUnread f g p q := by
  cases c <;> rfl

/-- The instructions that read or write one of the four parts: CALL and RET, LD ST,Vx, and RND. -/
def touchesUnread (i : Instr) : Prop :=
  i = .ret ∨ (∃ nnn, i = .call nnn) ∨ (∃ x, i = .ldStVx x) ∨ ∃ x kk, i = .rnd x kk

/-- An instruction that neither reads nor writes the four parts does the same whatever they hold. -/
theorem exec_mapUnread {i : Instr} (hi : ¬ touchesUnread i) :
    exec i (s.mapUnread f g p q) = mapNext (State.mapUnread f g p q) (exec i s) := by
  cases i
  case ret | call | ldStVx | rnd => exact absurd (by simp [touchesUnread]) hi
  case ldVxK x =>
    cases h : s.key with
    | none => rw [exec_ldVxK_of_none s x h, exec_ldVxK_of_none (s.mapUnread f g p q) x h]; rfl
    | some k => rw [exec_ldVxK_of_some s x k h, exec_ldVxK_of_some (s.mapUnread f g p q) x k h]; rfl
  case ldB x =>
    rcases Nat.lt_or_ge Config.memSize (s.I.toNat + 3) with h | h
    · rw [exec_ldB_of_lt s x h, exec_ldB_of_lt (s.mapUnread f g p q) x h]; rfl
    · rw [exec_ldB_of_le s x h, exec_ldB_of_le (s.mapUnread f g p q) x h]; rfl
  case ldMemVx x =>
    rcases Nat.lt_or_ge Config.memSize (s.I.toNat + rangeCount x) with h | h
    · rw [exec_ldMemVx_of_lt s x h, exec_ldMemVx_of_lt (s.mapUnread f g p q) x h]; rfl
    · rw [exec_ldMemVx_of_le s x h, exec_ldMemVx_of_le (s.mapUnread f g p q) x h]; rfl
  case ldVxMem x =>
    rcases Nat.lt_or_ge Config.memSize (s.I.toNat + rangeCount x) with h | h
    · rw [exec_ldVxMem_of_lt s x h, exec_ldVxMem_of_lt (s.mapUnread f g p q) x h]; rfl
    · rw [exec_ldVxMem_of_le s x h, exec_ldVxMem_of_le (s.mapUnread f g p q) x h, State.setRegsFrom_mapUnread]; rfl
  case seImm | sneImm | seReg | sneReg | skp | sknp =>
    exact congrArg Host.Outcome.next (s.skipIf_mapUnread f g p q _)
  all_goals rfl

/-- With the stack as it is, an instruction that is neither LD ST,Vx nor RND does the same whatever ST and the random
input hold. -/
theorem exec_mapUnread_id {i : Instr} (hst : ∀ x, i ≠ .ldStVx x) (hrnd : ∀ x kk, i ≠ .rnd x kk) :
    exec i (s.mapUnread id g p q) = mapNext (State.mapUnread id g p q) (exec i s) := by
  by_cases hi : touchesUnread i
  case neg => exact exec_mapUnread id g p q s hi
  rcases hi with rfl | ⟨nnn, rfl⟩ | ⟨x, rfl⟩ | ⟨x, kk, rfl⟩
  · rcases s.sp_cases with h | ⟨k, h⟩
    · rw [exec_ret_of_zero s h, exec_ret_of_zero (s.mapUnread id g p q) h]; rfl
    · rw [exec_ret_of_succ s k h, exec_ret_of_succ (s.mapUnread id g p q) k h]; rfl
  · rcases s.sp_full_or_lt with h | h
    · rw [exec_call_of_full s nnn h, exec_call_of_full (s.mapUnread id g p q) nnn h]; rfl
    · rw [exec_call_of_lt s nnn h, exec_call_of_lt (s.mapUnread id g p q) nnn h]; rfl
  · exact absurd rfl (hst x)
  · exact absurd rfl (hrnd x kk)

end MapUnread

variable {s u : State}

/-- Two states that fetch the same word at the same pc tick alike: a relation that holds after the same report, and
after the same instruction, holds at the end of the two ticks' execute phases. -/
theorem exists_step_related {R : State → State → Prop} (hfetch : u.fetch = s.fetch) (hpc : u.pc = s.pc)
    (hraise : ∀ r, R (s.beginTick.raise r) (u.beginTick.raise r))
    (hexec : ∀ i, DecodesAtPc s i → ∃ t t', exec i s.beginTick = .next t ∧ exec i u.beginTick = .next t' ∧ R t t') :
    ∃ t t', step s = .next t.endTick ∧ step u = .next t'.endTick ∧ R t t' := by
  simp only [step, tick, State.fetch_beginTick, hfetch]
  cases hf : s.fetch with
  | none => exact ⟨_, _, rfl, by simp [runFetched, hpc, mapNext], hraise _⟩
  | some w =>
    cases hd : decodeWord w with
    | none =>
      simp only [runFetched, hd, State.beginTick_pc, hpc]
      exact ⟨_, _, rfl, rfl, hraise _⟩
    | some i =>
      obtain ⟨t, t', ht, ht', hR⟩ := hexec i (decodesAtPc_iff.2 (by rw [hf]; exact hd))
      simp only [runFetched, hd, ht, ht', mapNext]
      exact ⟨t, t', rfl, rfl, hR⟩

section SoundTimer

/-- The execute phase with another ST ends in another ST alone. -/
theorem exec_setSt (i : Instr) (s : State) (v : Byte) :
    ∃ t t', exec i s = .next t ∧ exec i (s.setSt v) = .next t' ∧ ∃ w, t' = t.setSt w := by
  by_cases hst : ∃ x, i = .ldStVx x
  · obtain ⟨x, rfl⟩ := hst
    exact ⟨_, _, rfl, rfl, s.reg x, rfl⟩
  by_cases hrnd : ∃ x kk, i = .rnd x kk
  · obtain ⟨x, kk, rfl⟩ := hrnd
    exact ⟨_, _, rfl, rfl, v, rfl⟩
  obtain ⟨t, ht, -⟩ := exec_writesOwnParts s i
  have hsame := exec_mapUnread_id (fun _ => v) id id s (not_exists.1 hst) fun x kk h => hrnd ⟨x, kk, h⟩
  exact ⟨t, t.setSt v, ht, hsame.trans (by rw [ht]; rfl), v, rfl⟩

/-- The timer pass with another ST ends in another ST alone. -/
theorem State.endTick_setSt (t : State) (w : Byte) :
    (t.setSt w).endTick = t.endTick.setSt (if t.paused then w else countDown w) := by
  unfold State.endTick State.timerPass
  cases h : t.paused <;> simp [h] <;> rfl

/-- Settles O44: fetch and report do not read ST, no instruction carries it anywhere else, and neither does the timer
pass. -/
theorem soundTimerInfluencesNothing : Obligations.SoundTimerInfluencesNothing := by
  intro s v
  obtain ⟨t, t', ht, ht', w, rfl⟩ := exists_step_related (s := s) (u := s.setSt v)
    (R := fun t t' => ∃ w, t' = t.setSt w) rfl rfl (fun _ => ⟨v, rfl⟩) fun i _ => exec_setSt i s.beginTick v
  refine ⟨_, ht, _, ht', ?_⟩
  rw [State.endTick_setSt]
  exact onlyChanges_setSt _ _ rfl

end SoundTimer

section StaleEntries

/-- The second state is the first with an array that holds the same live entries. -/
def DiffersInStaleEntries (t t' : State) : Prop :=
  ∃ v, t' = t.setStack v ∧ ∀ k : Fin Config.stackDepth, t.live k → v[k] = t.stack[k]

/-- The execute phase with other stale entries ends in other stale entries alone: RET reads a live entry, and the entry
that CALL writes is the same. -/
theorem exec_setStack (i : Instr) (s : State) {v : Vector Word Config.stackDepth}
    (hv : ∀ k : Fin Config.stackDepth, s.live k → v[k] = s.stack[k]) :
    ∃ t t', exec i s = .next t ∧ exec i (s.setStack v) = .next t' ∧ DiffersInStaleEntries t t' := by
  by_cases hi : touchesUnread i
  · rcases hi with rfl | ⟨nnn, rfl⟩ | ⟨x, rfl⟩ | ⟨x, kk, rfl⟩
    · rcases s.sp_cases with h | ⟨k, h⟩
      · exact ⟨_, _, exec_ret_of_zero s h, exec_ret_of_zero (s.setStack v) h, v, rfl, hv⟩
      · have htop : v[k] = s.stack[k] := hv k h.symm.le
        refine ⟨_, _, exec_ret_of_succ s k h, exec_ret_of_succ (s.setStack v) k h, v, ?_, fun j hj => hv j ?_⟩
        · show ((s.setStack v).setSp _).setPc (v[k] + 2) = _
          rw [htop]
          rfl
        · have hjk : j.val < k.val := hj
          rw [State.live]
          omega
    · rcases s.sp_full_or_lt with h | h
      · exact ⟨_, _, exec_call_of_full s nnn h, exec_call_of_full (s.setStack v) nnn h, v, rfl, hv⟩
      · refine ⟨_, _, exec_call_of_lt s nnn h, exec_call_of_lt (s.setStack v) nnn h, v.set s.sp.val s.pc h, rfl, ?_⟩
        intro k hk
        have hk' : k.val < s.sp.val + 1 := hk
        by_cases hpush : s.sp.val = k.val
        · simp [hpush]
        · have hlive : s.live k := by rw [State.live]; omega
          simpa [Vector.getElem_set, hpush] using hv k hlive
    · exact ⟨_, _, rfl, rfl, v, rfl, hv⟩
    · exact ⟨_, _, rfl, rfl, v, rfl, hv⟩
  · obtain ⟨t, ht, hparts⟩ := exec_writesOwnParts s i
    have hret : i ≠ .ret := fun h => hi (.inl h)
    obtain ⟨hstack, hsp⟩ := hparts.stack fun nnn h => hi (.inr (.inl ⟨nnn, h⟩))
    refine ⟨t, t.setStack v, ht, (exec_mapUnread (fun _ => v) id id id s hi).trans (by rw [ht]; rfl), v, rfl,
      fun k hk => ?_⟩
    rw [hstack]
    exact hv k (by rwa [State.live, hsp hret] at hk)

/-- The timer pass does not touch the stack. -/
theorem State.endTick_setStack (t : State) (v : Vector Word Config.stackDepth) :
    (t.setStack v).endTick = t.endTick.setStack v := by
  unfold State.endTick State.timerPass
  cases h : t.paused <;> simp [h] <;> rfl

/-- Settles O51: fetch and report do not read the stack, and no instruction carries a stale entry anywhere else. -/
theorem staleStackEntriesInfluenceNothing : Obligations.StaleStackEntriesInfluenceNothing := by
  intro s v hv
  obtain ⟨t, t', ht, ht', w, rfl, hw⟩ := exists_step_related (s := s) (u := s.setStack v) (R := DiffersInStaleEntries)
    rfl rfl (fun _ => ⟨v, rfl, hv⟩) fun i _ => exec_setStack i s.beginTick hv
  refine ⟨_, ht, _, ht', ?_⟩
  rw [State.endTick_setStack]
  refine onlyChanges_setStack _ _ fun k hk => ?_
  have hlive : t.endTick.live k := not_not.1 fun hstale => hk ⟨k, rfl, hstale⟩
  rw [State.endTick_stack]
  exact hw k (by rwa [State.live, State.endTick_sp] at hlive)

end StaleEntries

section RandomInput

/-- The execute phase of any instruction but RND does the same on another random input and leaves it. -/
theorem exec_setRandIn_setRandCount {i : Instr} (hi : ∀ x kk, i ≠ .rnd x kk) (s : State) (b : Option Byte) (n : Nat) :
    ∃ t t', exec i s = .next t ∧ exec i ((s.setRandIn b).setRandCount n) = .next t' ∧
      t' = (t.setRandIn b).setRandCount n ∧ t.randCount = s.randCount := by
  obtain ⟨t, ht, hparts⟩ := exec_writesOwnParts s i
  refine ⟨t, (t.setRandIn b).setRandCount n, ht, ?_, rfl, hparts.randCount hi⟩
  by_cases hst : ∃ x, i = .ldStVx x
  · obtain ⟨x, rfl⟩ := hst
    obtain rfl := eq_of_next (o := exec (.ldStVx x) s) rfl ht
    rfl
  · exact (exec_mapUnread_id id (fun _ => b) (fun _ => n) s (not_exists.1 hst) hi).trans (by rw [ht]; rfl)

/-- The end of a tick takes the random byte away and leaves the index. -/
theorem State.endTick_setRandIn_setRandCount (t : State) (b : Option Byte) (n : Nat) :
    ((t.setRandIn b).setRandCount n).endTick = t.endTick.setRandCount n := by
  unfold State.endTick State.timerPass
  cases h : t.paused <;> simp [h] <;> rfl

/-- Settles O52: fetch and report do not read the random input, and no instruction but RND does. -/
theorem onlyRandomReadsTheRandomInput : Obligations.OnlyRandomReadsTheRandomInput := by
  intro s b n hno
  obtain ⟨t, t', ht, ht', rfl, hcount⟩ := exists_step_related (s := s) (u := (s.setRandIn b).setRandCount n)
    (R := fun t t' => t' = (t.setRandIn b).setRandCount n ∧ t.randCount = s.randCount) rfl rfl (fun _ => ⟨rfl, rfl⟩)
    fun i hi => exec_setRandIn_setRandCount (by rintro x kk rfl; exact hno x kk hi) s.beginTick b n
  refine ⟨_, ht, _, ht', ?_⟩
  rw [State.endTick_setRandIn_setRandCount]
  exact ⟨onlyChanges_setRandCount _ _ rfl, (State.endTick_randCount t).trans hcount, rfl⟩

end RandomInput

end Sys2Proof.Machine
end

section
/-! The decoder and the encoder (spec/30_encoding.md R92 to R103): each is read off the class of a word, and below
it off the sub-opcode. -/

namespace Sys2Proof

variable (x y : RegIdx) (n : Nibble) (kk : Byte) (nnn : Addr12)

/-! The words of the classes that no earlier lemma decodes (R95). -/

theorem decodeWord_formatA_zero : decodeWord (formatA 0x0 nnn) = some (decodeClass0 nnn) := by simp [decodeWord]
theorem decodeWord_formatA_two : decodeWord (formatA 0x2 nnn) = some (.call nnn) := by simp [decodeWord]
theorem decodeWord_formatR_five : decodeWord (formatR 0x5 x y n) = some (.seReg x y) := by simp [decodeWord]
theorem decodeWord_formatR_nine : decodeWord (formatR 0x9 x y n) = some (.sneReg x y) := by simp [decodeWord]
theorem decodeWord_formatI_twelve : decodeWord (formatI 0xC x kk) = some (.rnd x kk) := by simp [decodeWord]
theorem decodeWord_formatR_thirteen : decodeWord (formatR 0xD x y n) = some (.drw x y n) := by simp [decodeWord]

/-- The decoder gives an encoded well-formed instruction back (R103). -/
theorem decodeWord_encode {i : Instr} (hi : i.wellFormed = true) : decodeWord (encode i) = some i := by
  cases i with
  | cls | ret => decide
  | sys nnn =>
    obtain ⟨hcls, hret⟩ : nnn ≠ 0x0E0 ∧ nnn ≠ 0x0EE := by simpa [Instr.wellFormed] using hi
    rw [encode, decodeWord_formatA_zero, decodeClass0, if_neg hcls, if_neg hret]
  | jp nnn => exact decodeWord_formatA_one nnn
  | call nnn => exact decodeWord_formatA_two nnn
  | ldI nnn => exact decodeWord_formatA_ten nnn
  | jpV0 nnn => exact decodeWord_formatA_eleven nnn
  | seImm x kk => exact decodeWord_formatI_three x kk
  | sneImm x kk => exact decodeWord_formatI_four x kk
  | ldImm x kk => exact decodeWord_formatI_six x kk
  | addImm x kk => exact decodeWord_formatI_seven x kk
  | rnd x kk => exact decodeWord_formatI_twelve x kk
  | seReg x y => exact decodeWord_formatR_five x y 0x0
  | sneReg x y => exact decodeWord_formatR_nine x y 0x0
  | drw x y n => exact decodeWord_formatR_thirteen x y n
  | ldReg x y | orReg x y | andReg x y | xorReg x y | addReg x y | subReg x y | shr x y | subnReg x y | shl x y =>
    exact decodeWord_formatR_eight x y _
  | skp x | sknp x => exact decodeWord_formatF_fourteen x _
  | ldVxDt x | ldVxK x | ldDtVx x | ldStVx x | addI x | ldF x | ldB x | ldMemVx x | ldVxMem x =>
    exact decodeWord_formatF_fifteen x _

/-- Bytes decode as the word of the first two, high byte first (20_memory.md R63). -/
theorem decode_bytesOfWord_append {w : Word} {i : Instr} (h : decodeWord w = some i) (rest : List Byte) :
    decode (bytesOfWord w ++ rest) = .instr i rest := by
  simp [decode, bytesOfWord, h]

/-- Settles O13: on words by the class of each format, and on bytes through the word they make. -/
theorem decodingAnEncodedInstructionGivesItBack : Obligations.DecodingAnEncodedInstructionGivesItBack :=
  fun _ hi => ⟨decodeWord_encode hi, decode_bytesOfWord_append (decodeWord_encode hi)⟩

/-- Settles O17: the decoder computes on each of the words. -/
theorem writtenOutWordsDecode : Obligations.WrittenOutWordsDecode := by
  unfold Obligations.WrittenOutWordsDecode
  decide

/-! What a word that decodes is the encoding of. -/

variable {x y n kk nnn} {w : Word} {i : Instr}

/-- `i` is well-formed and `w` is its word. -/
def IsEncodingOf (w : Word) (i : Instr) : Prop := i.wellFormed = true ∧ encode i = w

/-- What class 0x0 selects is encoded in the word it was selected by. -/
theorem isEncodingOf_of_decodeClass0 (h : decodeClass0 nnn = i) : IsEncodingOf (formatA 0x0 nnn) i := by
  subst h
  unfold decodeClass0
  split_ifs with hcls hret
  · subst hcls; exact ⟨rfl, by decide⟩
  · subst hret; exact ⟨rfl, by decide⟩
  · exact ⟨by simpa [Instr.wellFormed] using ⟨hcls, hret⟩, rfl⟩

/-- What class 0x8 selects is encoded in the word it was selected by. -/
theorem isEncodingOf_of_decodeClass8 (h : decodeClass8 x y n = some i) : IsEncodingOf (formatR 0x8 x y n) i := by
  unfold decodeClass8 at h
  split_ifs at h <;> (rename_i hn; subst hn; cases h; exact ⟨rfl, rfl⟩)

/-- What class 0xE selects is encoded in the word it was selected by. -/
theorem isEncodingOf_of_decodeClassE (h : decodeClassE x kk = some i) : IsEncodingOf (formatF 0xE x kk) i := by
  unfold decodeClassE at h
  split_ifs at h <;> (rename_i hkk; subst hkk; cases h; exact ⟨rfl, rfl⟩)

/-- What class 0xF selects is encoded in the word it was selected by. -/
theorem isEncodingOf_of_decodeClassF (h : decodeClassF x kk = some i) : IsEncodingOf (formatF 0xF x kk) i := by
  unfold decodeClassF at h
  split_ifs at h <;> (rename_i hkk; subst hkk; cases h; exact ⟨rfl, rfl⟩)

/-- The sixteen classes of words, each in the format its operands have (R93, R95). -/
theorem word_cases {P : Word → Prop} (h0 : ∀ nnn, P (formatA 0x0 nnn)) (h1 : ∀ nnn, P (formatA 0x1 nnn))
    (h2 : ∀ nnn, P (formatA 0x2 nnn)) (h3 : ∀ x kk, P (formatI 0x3 x kk)) (h4 : ∀ x kk, P (formatI 0x4 x kk))
    (h5 : ∀ x y n, P (formatR 0x5 x y n)) (h6 : ∀ x kk, P (formatI 0x6 x kk)) (h7 : ∀ x kk, P (formatI 0x7 x kk))
    (h8 : ∀ x y n, P (formatR 0x8 x y n)) (h9 : ∀ x y n, P (formatR 0x9 x y n)) (hA : ∀ nnn, P (formatA 0xA nnn))
    (hB : ∀ nnn, P (formatA 0xB nnn)) (hC : ∀ x kk, P (formatI 0xC x kk)) (hD : ∀ x y n, P (formatR 0xD x y n))
    (hE : ∀ x kk, P (formatF 0xE x kk)) (hF : ∀ x kk, P (formatF 0xF x kk)) (w : Word) : P w := by
  have hclass : ∀ c : Nibble, c = 0x0 ∨ c = 0x1 ∨ c = 0x2 ∨ c = 0x3 ∨ c = 0x4 ∨ c = 0x5 ∨ c = 0x6 ∨ c = 0x7 ∨ c = 0x8 ∨
      c = 0x9 ∨ c = 0xA ∨ c = 0xB ∨ c = 0xC ∨ c = 0xD ∨ c = 0xE ∨ c = 0xF := by decide
  have hA' : P (formatA (fieldClass w) (fieldNNN w)) → P w := fun h => formatA_fields w ▸ h
  have hI' : P (formatI (fieldClass w) (fieldX w) (fieldKK w)) → P w := fun h => formatI_fields w ▸ h
  have hR' : P (formatR (fieldClass w) (fieldX w) (fieldY w) (fieldN w)) → P w := fun h => formatR_fields w ▸ h
  rcases hclass (fieldClass w) with h | h | h | h | h | h | h | h | h | h | h | h | h | h | h | h <;>
    rw [h] at hA' hI' hR'
  exacts [hA' (h0 _), hA' (h1 _), hA' (h2 _), hI' (h3 _ _), hI' (h4 _ _), hR' (h5 _ _ _), hI' (h6 _ _), hI' (h7 _ _),
    hR' (h8 _ _ _), hR' (h9 _ _ _), hA' (hA _), hA' (hB _), hI' (hC _ _), hR' (hD _ _ _), hI' (hE _ _), hI' (hF _ _)]

/-- Settles O16: the classes 0x8, 0xE and 0xF leave words undefined, each by its sub-opcode, and no other class does. -/
theorem undefinedWordsAreExactlyThoseListed : Obligations.UndefinedWordsAreExactlyThoseListed := by
  intro w
  induction w using word_cases
  case h8 x y n => rw [decodeWord_formatR_eight, decodeClass8_eq_none_iff]; simp
  case hE x kk => rw [decodeWord_formatF_fourteen, decodeClassE_eq_none_iff]; simp
  case hF x kk => rw [decodeWord_formatF_fifteen, decodeClassF_eq_none_iff]; simp
  all_goals simp [decodeWord]

/-- Clearing w[3:0] keeps class, X and Y. -/
theorem and_FFF0 (w : Word) : w &&& 0xFFF0 = formatR (fieldClass w) (fieldX w) (fieldY w) 0x0 := by
  refine BitVec.eq_of_getLsbD_eq fun i hi => ?_
  simp only [formatR, fieldClass, fieldX, fieldY, BitVec.getLsbD_append, BitVec.getLsbD_extractLsb', BitVec.getLsbD_and]
  interval_cases i <;> simp

/-- Settles O14: class by class, the word of what a word decodes to is the word, w[3:0] cleared in classes 0x5 and
0x9. -/
theorem decodedWordsAreEncodings : Obligations.DecodedWordsAreEncodings := by
  intro w i h
  have hkept (hw : IsEncodingOf w i) (hclass : fieldClass w ≠ 0x5 ∧ fieldClass w ≠ 0x9) : i.wellFormed = true ∧
      encode i = if fieldClass w = 0x5 ∨ fieldClass w = 0x9 then w &&& 0xFFF0 else w := by
    rwa [if_neg (not_or.2 hclass)]
  induction w using word_cases
  case h0 nnn => exact hkept (isEncodingOf_of_decodeClass0 (by simpa [decodeWord] using h)) (by simp)
  case h8 x y n => exact hkept (isEncodingOf_of_decodeClass8 (decodeWord_formatR_eight x y n ▸ h)) (by simp)
  case hE x kk => exact hkept (isEncodingOf_of_decodeClassE (decodeWord_formatF_fourteen x kk ▸ h)) (by simp)
  case hF x kk => exact hkept (isEncodingOf_of_decodeClassF (decodeWord_formatF_fifteen x kk ▸ h)) (by simp)
  case h5 x y n =>
    obtain rfl := Option.some.inj ((decodeWord_formatR_five x y n).symm.trans h)
    exact ⟨rfl, by rw [if_pos (by simp), and_FFF0]; simp [encode]⟩
  case h9 x y n =>
    obtain rfl := Option.some.inj ((decodeWord_formatR_nine x y n).symm.trans h)
    exact ⟨rfl, by rw [if_pos (by simp), and_FFF0]; simp [encode]⟩
  all_goals
    obtain rfl : _ = i := by simpa [decodeWord] using h
    exact hkept ⟨rfl, rfl⟩ (by simp)

/-! The opcode map read by fields (R96). -/

section RowTests
variable (w : Word) (c n : Nibble) (kk : Byte) (nnn : Addr12)

/-- The mask of a class tests the class. -/
theorem and_F000_beq : (w &&& 0xF000 == formatR c 0 0 0) = (fieldClass w == c) := by
  rw [and_F000, Bool.eq_iff_iff, beq_iff_eq, beq_iff_eq]
  exact ⟨fun h => by simpa using congrArg fieldClass h, fun h => by rw [h]⟩

/-- The mask of class 0x8 tests the class and N. -/
theorem and_F00F_beq : (w &&& 0xF00F == formatR c 0 0 n) = (fieldClass w == c && fieldN w == n) := by
  rw [and_F00F, Bool.eq_iff_iff, Bool.and_eq_true, beq_iff_eq, beq_iff_eq, beq_iff_eq]
  exact ⟨fun h => ⟨by simpa using congrArg fieldClass h, by simpa using congrArg fieldN h⟩,
    fun ⟨h, h'⟩ => by rw [h, h']⟩

/-- The mask of classes 0xE and 0xF tests the class and KK. -/
theorem and_F0FF_beq : (w &&& 0xF0FF == formatF c 0 kk) = (fieldClass w == c && fieldKK w == kk) := by
  rw [and_F0FF, Bool.eq_iff_iff, Bool.and_eq_true, beq_iff_eq, beq_iff_eq, beq_iff_eq]
  exact ⟨fun h => ⟨by simpa using congrArg fieldClass h, by simpa using congrArg fieldKK h⟩,
    fun ⟨h, h'⟩ => by rw [h, h']⟩

/-- The mask of CLS and RET tests the class and NNN. -/
theorem and_FFFF_beq : (w &&& 0xFFFF == formatA c nnn) = (fieldClass w == c && fieldNNN w == nnn) := by
  have hall : w &&& 0xFFFF = w := BitVec.and_allOnes
  rw [hall, Bool.eq_iff_iff, Bool.and_eq_true, beq_iff_eq, beq_iff_eq, beq_iff_eq]
  exact ⟨fun h => ⟨by simp [h], by simp [h]⟩, fun ⟨h, h'⟩ => by rw [← formatA_fields w, h, h']⟩

end RowTests

/-- The opcode map with every match written by its fields. -/
theorem opcodeRows_eq : opcodeRows =
    [(0xFFFF, formatA 0x0 0x0E0), (0xFFFF, formatA 0x0 0x0EE)] ++
    [0x0, 0x1, 0x2, 0x3, 0x4, 0x5, 0x6, 0x7].map (fun c => (0xF000, formatR c 0 0 0)) ++
    [0x0, 0x1, 0x2, 0x3, 0x4, 0x5, 0x6, 0x7, 0xE].map (fun n => (0xF00F, formatR 0x8 0 0 n)) ++
    [0x9, 0xA, 0xB, 0xC, 0xD].map (fun c => (0xF000, formatR c 0 0 0)) ++
    [0x9E, 0xA1].map (fun kk => (0xF0FF, formatF 0xE 0 kk)) ++
    [0x07, 0x0A, 0x15, 0x18, 0x1E, 0x29, 0x33, 0x55, 0x65].map (fun kk => (0xF0FF, formatF 0xF 0 kk)) := by decide

section SubOpcodeRows
variable (x y : RegIdx) (n : Nibble) (kk : Byte) (nnn : Addr12)

/-- Class 0x0 selects CLS, RET and SYS, the rows from 0 on. -/
theorem row_decodeClass0 : some (decodeClass0 nnn).row =
    if nnn = 0x0E0 then some 0 else (if nnn = 0x0EE then some 0 else some 1).map (· + 1) := by
  unfold decodeClass0
  split_ifs <;> rfl

/-- Class 0x8 selects among the rows from 10 on by N. -/
theorem map_row_decodeClass8 : (decodeClass8 x y n).map Instr.row =
    (([0x0, 0x1, 0x2, 0x3, 0x4, 0x5, 0x6, 0x7, 0xE] : List Nibble).findIdx? (n == ·)).map (· + 10) := by
  unfold decodeClass8
  split_ifs <;> simp_all [Instr.row, List.findIdx?_cons]

/-- Class 0xE selects among the rows from 24 on by KK. -/
theorem map_row_decodeClassE : (decodeClassE x kk).map Instr.row =
    (([0x9E, 0xA1] : List Byte).findIdx? (kk == ·)).map (· + 24) := by
  unfold decodeClassE
  split_ifs <;> simp_all [Instr.row, List.findIdx?_cons]

/-- Class 0xF selects among the rows from 26 on by KK. -/
theorem map_row_decodeClassF : (decodeClassF x kk).map Instr.row =
    (([0x07, 0x0A, 0x15, 0x18, 0x1E, 0x29, 0x33, 0x55, 0x65] : List Byte).findIdx? (kk == ·)).map (· + 26) := by
  unfold decodeClassF
  split_ifs <;> simp_all [Instr.row, List.findIdx?_cons]

end SubOpcodeRows

/-- Settles O15: read by fields, the rows a word can match are those of its class, and there the decoder's tests of the
sub-opcode are the rows' own. -/
theorem decoderSelectsTheFirstMatchingRow : Obligations.DecoderSelectsTheFirstMatchingRow := by
  intro w
  rw [firstRow, opcodeRows_eq]
  simp only [List.map_cons, List.map_nil, List.cons_append, List.nil_append, List.findIdx?_cons, List.findIdx?_nil,
    and_F000_beq, and_F00F_beq, and_F0FF_beq, and_FFFF_beq]
  induction w using word_cases
  case h0 nnn => rw [decodeWord_formatA_zero, Option.map_some, row_decodeClass0]; simp
  case h8 x y n => rw [decodeWord_formatR_eight, map_row_decodeClass8]; simp [List.findIdx?_cons]
  case hE x kk => rw [decodeWord_formatF_fourteen, map_row_decodeClassE]; simp [List.findIdx?_cons]
  case hF x kk => rw [decodeWord_formatF_fifteen, map_row_decodeClassF]; simp [List.findIdx?_cons]
  all_goals simp [decodeWord, Instr.row]

end Sys2Proof
end

section
/-! CALL, SYS and the skips on two registers (spec/41_control_transfer.md R141, R144, R147, R148). -/

namespace Sys2Proof.Machine

variable {s : State}

/-- CALL below the depth puts its own address in the first entry that is not live, and jumps (R144). -/
theorem completes_call_of_lt (nnn : Addr12) {k : Fin Config.stackDepth} (h : s.sp.val = k.val) :
    Completes (.call nnn) s fun t => t.stack[k] = s.pc ∧ t.sp.val = k.val + 1 ∧ t.pc.toNat = nnn.toNat ∧
      OnlyChanges s t fun p => p = .stackEntry k ∨ p = .sp ∨ p = .pc := by
  have hlt : s.sp.val < Config.stackDepth := h.trans_lt k.isLt
  have hpushed : (s.stack.set s.sp.val s.pc hlt)[k] = s.pc := by simp [h]
  have hkept : ∀ j : Fin Config.stackDepth, ¬ Part.stackEntry j = .stackEntry k →
      (s.stack.set s.sp.val s.pc hlt)[j] = s.stack[j] := by
    intro j hj
    have hne : s.sp.val ≠ j.val := fun e => hj (congrArg Part.stackEntry (Fin.ext (e.symm.trans h)))
    exact Vector.getElem_set_ne hlt j.isLt hne
  refine ⟨_, exec_call_of_lt s nnn hlt, hpushed, congrArg (· + 1) h, addrOf_toNat nnn, ?_⟩
  exact ((onlyChanges_setStack s _ fun j hj => hkept j fun e => hj (.inl e)).trans
    (onlyChanges_setSp _ _ (.inr (.inl rfl)))).trans (onlyChanges_setPc _ _ (.inr (.inr rfl)))

/-- CALL at the depth raises `StackOverflow(pc)` and does nothing else. -/
theorem completes_call_of_full (nnn : Addr12) (h : s.sp.val = 16) : Completes (.call nnn) s fun t =>
    t.pc = s.pc ∧ t.result = .report (.stackOverflow s.pc) ∧ t.reports = s.reports ++ [.stackOverflow s.pc] ∧
    OnlyChanges s t fun p => p = .result ∨ p = .reports :=
  ⟨_, exec_call_of_full s nnn h, rfl, rfl, rfl, onlyChanges_raise_of_pc s _ rfl⟩

/-- Settles O21: SP is below the depth or at it, and CALL's meaning in each case is its own lemma. -/
theorem callPushesItsOwnAddress : Obligations.CallPushesItsOwnAddress :=
  fun _ nnn => ⟨fun _ h => completes_call_of_lt nnn h, completes_call_of_full nnn⟩

/-- Settles O23: the entry that RET pops is the one that CALL pushed. -/
theorem callThenReturnResumesAfterTheCall : Obligations.CallThenReturnResumesAfterTheCall := by
  intro s nnn hlt
  obtain ⟨t, hcall, hpushed, hsp, -, -⟩ := completes_call_of_lt (s := s) nnn (k := ⟨s.sp.val, hlt⟩) rfl
  refine ⟨t, hcall, fun u husp hustack => ?_⟩
  obtain ⟨v, hret, hpc, -, hvsp, -⟩ := completes_ret_of_succ (s := u) (k := ⟨s.sp.val, hlt⟩) (by rw [husp, hsp])
  exact ⟨v, hret, by rw [hpc, hustack, hpushed], Fin.ext hvsp⟩

/-- Settles O24: SYS is the report of its own word. -/
theorem sysReportsItsWordAndAdvances : Obligations.SysReportsItsWordAndAdvances := fun s nnn _ =>
  ⟨s.raise (.undefinedOpcode (encode (.sys nnn)) s.pc), rfl, rfl, rfl, rfl,
    onlyChanges_raise s _ (.inl rfl) (.inr (.inl rfl)) (.inr (.inr rfl))⟩

/-- Settles O20: both are the conditional skip, on `x[X] = x[Y]` and on its negation. -/
theorem skipsOnTwoRegisters : Obligations.SkipsOnTwoRegisters := fun s x y n =>
  ⟨completes_of_skipIf s rfl, completes_of_skipIf s rfl, decodeWord_formatR_five x y n, decodeWord_formatR_nine x y n⟩

end Sys2Proof.Machine
end

section
/-! The other register instructions of class 0x8 and RND (spec/42_alu.md R163 to R172), and which instructions write VF
(10_state.md R42). -/

namespace Sys2Proof.Machine

/-- Settles O26: each is one register write. -/
theorem moveOrAndWriteNoFlag : Obligations.MoveOrAndWriteNoFlag := fun s _ _ =>
  ⟨completes_of_setReg s rfl, completes_of_setReg s rfl, completes_of_setReg s rfl⟩

/-- The exclusive or of two bytes differs from their inclusive or exactly when they share a set bit (R166). -/
theorem xor_ne_or_iff (a b : Byte) : a ^^^ b ≠ a ||| b ↔ a &&& b ≠ 0 := by
  have hbits : ∀ i (hi : i < 8), (a ^^^ b)[i] = (a ||| b)[i] ↔ (a &&& b)[i] = (0#8)[i] := by
    intro i hi
    rw [BitVec.getElem_xor, BitVec.getElem_or, BitVec.getElem_and, BitVec.getElem_zero]
    cases a[i] <;> cases b[i] <;> decide
  rw [ne_eq, ne_eq, BitVec.eq_of_getElem_eq_iff, BitVec.ofNat_eq_ofNat, BitVec.eq_of_getElem_eq_iff]
  exact not_congr (forall₂_congr hbits)

/-- Settles O27: the flag is that of the common bits, written after the exclusive or. -/
theorem xorFlagsCommonBits : Obligations.XorFlagsCommonBits := by
  intro s x y
  obtain ⟨t, hexec, hflag, hresult, hpc, hframe⟩ := completes_of_writeResultFlag s (i := .xorReg x y) rfl
  refine ⟨t, hexec, ?_, hresult, hpc, hframe⟩
  rw [hflag]
  exact if_congr (xor_ne_or_iff _ _) rfl rfl

/-- Settles O30: the result is the byte difference of x[Y] and x[X], and the flag written after it the not-borrow. -/
theorem subnSubtractsTheOtherWay : Obligations.SubnSubtractsTheOtherWay := by
  intro s x y
  obtain ⟨t, hexec, hflag, hresult, hpc, hframe⟩ := completes_of_writeResultFlag s (i := .subnReg x y) rfl
  refine ⟨t, hexec, hflag, fun hx => ?_, hpc, hframe⟩
  rw [hresult hx, diff8_toNat]

/-- A shift puts the shifted byte in x[X] and then the lost bit in VF (R169, R171). -/
theorem completes_of_shift (s : State) {i : Instr} {x : RegIdx} {b : Byte} {f : Bool}
    (h : exec i s = .next (s.writeResultFlag x b f).advance) : Completes i s fun t =>
      (t.reg 0xF).toNat = f.toNat ∧ (x ≠ 0xF → t.reg x = b) ∧ t.pc = s.pc + 2 ∧ OnlyChanges s t (writesRegFlag x) := by
  obtain ⟨t, hexec, hflag, hrest⟩ := completes_of_writeResultFlag s (P := f = true) (by rw [h, Bool.decide_eq_true])
  refine ⟨t, hexec, ?_, hrest⟩
  rw [hflag]
  cases f <;> rfl

/-- Bit 0 of a byte is its remainder by 2. -/
theorem shrFlag_toNat (a : Byte) : (shrFlag a).toNat = a.toNat % 2 := by
  rw [shrFlag, BitVec.getLsbD, Nat.testBit_zero]
  rcases Nat.mod_two_eq_zero_or_one a.toNat with h | h <;> simp [h]

/-- Bit 7 of a byte is its quotient by 128. -/
theorem shlFlag_toNat (a : Byte) : (shlFlag a).toNat = a.toNat / 128 := by
  have hbit : a.toNat / 128 = 0 ∨ a.toNat / 128 = 1 := by have := a.isLt; omega
  rw [shlFlag, BitVec.getLsbD, Nat.testBit_eq_decide_div_mod_eq]
  rcases hbit with h | h <;> simp [h]

/-- Settles O31: the lost bit and the shifted byte as numbers. -/
theorem shiftsDeliverTheLostBit : Obligations.ShiftsDeliverTheLostBit := by
  intro s x y
  obtain ⟨t, hshr, hshrFlag, hshrResult, hshrRest⟩ := completes_of_shift s (i := .shr x y) rfl
  obtain ⟨u, hshl, hshlFlag, hshlResult, hshlRest⟩ := completes_of_shift s (i := .shl x y) rfl
  refine ⟨⟨t, hshr, hshrFlag.trans (shrFlag_toNat _), fun hx => ?_, hshrRest⟩,
    ⟨u, hshl, hshlFlag.trans (shlFlag_toNat _), fun hx => ?_, hshlRest⟩⟩
  · rw [hshrResult hx, BitVec.toNat_ushiftRight, Nat.shiftRight_eq_div_pow]
    rfl
  · rw [hshlResult hx, BitVec.toNat_shiftLeft, Nat.shiftLeft_eq, Nat.mul_comm]
    rfl

/-- Settles O32: the byte taken is the presented one, or the free one where none is presented. -/
theorem randomIsMaskedByTheImmediate : Obligations.RandomIsMaskedByTheImmediate := by
  intro s x kk
  have hreg : ((s.setReg x (s.rand8 &&& kk)).setRandCount (s.randCount + 1)).advance.reg x = s.rand8 &&& kk := by simp
  have hframe : OnlyChanges s ((s.setReg x (s.rand8 &&& kk)).setRandCount (s.randCount + 1)).advance
      fun p => writesReg x p ∨ p = .randCount :=
    ((onlyChanges_setReg s x _ (.inl (.inl rfl))).trans (onlyChanges_setRandCount _ _ (.inr rfl))).trans
      (onlyChanges_advance _ (.inl (.inr rfl)))
  refine ⟨_, rfl, ?_, fun b hb => ?_, fun hnone => ?_, rfl, hframe⟩ <;> rw [hreg]
  · rw [BitVec.and_assoc, BitVec.and_not_self]
    exact BitVec.and_zero
  · rw [State.rand8, hb]
  · rw [State.rand8, hnone]

/-- The flag register holds 0 or 1 after the flag write. -/
theorem State.flag_writeResultFlag (s : State) (x : RegIdx) (b : Byte) (f : Bool) :
    (s.writeResultFlag x b f).advance.reg 0xF = 0 ∨ (s.writeResultFlag x b f).advance.reg 0xF = 1 := by
  cases f <;> simp

/-- Settles O50: a flag writer ends with the flag write, and any other instruction leaves VF unless `regWrites` names
it. -/
theorem flagIsWrittenOnlyByFlagWriters : Obligations.FlagIsWrittenOnlyByFlagWriters := by
  intro i s
  cases i
  case xorReg | addReg | subReg | subnReg | shr | shl => exact ⟨_, rfl, State.flag_writeResultFlag ..⟩
  case drw x y n =>
    refine ⟨_, rfl, ?_⟩
    cases (composite (s.reg x).toNat (s.reg y).toNat (s.spriteRows n) s.grid).2 <;> simp
  case ldImm x _ | addImm x _ | ldReg x _ | orReg x _ | andReg x _ | rnd x _ | ldVxDt x | ldVxK x =>
    obtain ⟨t, hexec, hparts⟩ := exec_writesOwnParts s _
    exact ⟨t, hexec, fun hx => hparts.reg 0xF (beq_false_of_ne hx.symm)⟩
  case ldVxMem x =>
    obtain ⟨t, hexec, hparts⟩ := exec_writesOwnParts s (.ldVxMem x)
    refine ⟨t, hexec, fun hx => hparts.reg 0xF (decide_eq_false ?_)⟩
    bv_omega
  all_goals
    obtain ⟨t, hexec, hparts⟩ := exec_writesOwnParts s _
    exact ⟨t, hexec, hparts.reg 0xF rfl⟩

end Sys2Proof.Machine
end

section
/-! The address register and the memory instructions (spec/43_index_memory.md R191 to R196), the load of the host
(20_memory.md R78 to R80) and what is fetched after a store (R86). -/

namespace Sys2Proof.Machine

variable (s : State)

/-- Settles O34: ADD I,Vx is one write of I, with the 16-bit sum. -/
theorem addToAddressRegisterWritesNoFlag : Obligations.AddToAddressRegisterWritesNoFlag := by
  intro s x
  obtain ⟨t, hexec, hI, hpc, hframe⟩ := completes_of_setI s (i := .addI x) rfl
  refine ⟨t, hexec, ?_, hpc, hframe⟩
  have hx : (zext16 (s.reg x)).toNat = (s.reg x).toNat := BitVec.toNat_setWidth_of_le (by decide)
  rw [hI, BitVec.toNat_add, hx]

/-- The glyph of a byte's low nibble `d` starts at `5 * d` (20_memory.md R69). -/
theorem glyphAddr_toNat (v : Byte) : (glyphAddr v).toNat = 5 * (v.toNat % 16) := by
  have hlow : (v.extractLsb' 0 4).toNat = v.toNat % 16 := rfl
  rw [glyphAddr, hlow, BitVec.toNat_ofNat]
  omega

/-- After reset the bytes of the glyph table are those of the parameter (20_memory.md R69, R70). -/
theorem read_reset_of_lt {a : Nat} (ha : a < 80) : Config.glyphBytes[a]? = some (State.reset.mem.read a) := by
  have hlen : a < Config.glyphBytes.length := ha
  show _ = some (Config.glyphBytes.getD a 0x00)
  rw [List.getD_eq_getElem _ _ hlen, List.getElem?_eq_getElem hlen]

/-- Settles O35: LD F,Vx is one write of I, with an address whose five bytes are inside the glyph table. -/
theorem loadGlyphAddressPointsAtTheGlyph : Obligations.LoadGlyphAddressPointsAtTheGlyph := by
  intro s x
  obtain ⟨t, hexec, hI, hpc, hframe⟩ := completes_of_setI s (i := .ldF x) rfl
  have haddr : t.I.toNat = 5 * ((s.reg x).toNat % 16) := by rw [hI, glyphAddr_toNat]
  exact ⟨t, hexec, haddr, hpc, hframe, fun k hk => read_reset_of_lt (by omega)⟩

/-! ## Stores -/

section Stores
variable {s : State} {bytes : List Byte}

/-- Storing bytes changes those bytes alone. -/
theorem onlyChanges_setMem_writeBytes {w : Part → Prop} (hm : s.mem.wf) (a : Nat)
    (h : ∀ k, k < bytes.length → w (.memByte (a + k))) : OnlyChanges s (s.setMem (s.mem.writeBytes a bytes)) w := by
  refine onlyChanges_setMem s _ fun b hb => Memory.read_writeBytes_of_outside hm.1 fun ⟨hle, hlt⟩ => hb ?_
  obtain ⟨k, rfl⟩ := Nat.exists_eq_add_of_le hle
  exact h k (by omega)

/-- An instruction that stores bytes at `I`, in range: each is at its address, memory stays canonical, pc advances by 2
and nothing else changes (R193, R194). -/
theorem completes_of_store {i : Instr} (hm : s.mem.wf) (hfit : s.I.toNat + bytes.length ≤ Config.memSize)
    (h : exec i s = .next (s.setMem (s.mem.writeBytes s.I.toNat bytes)).advance) : Completes i s fun t =>
      (∀ k (hk : k < bytes.length), t.mem.read (s.dataAddr k) = bytes[k]) ∧ t.pc = s.pc + 2 ∧ t.mem.wf ∧
      OnlyChanges s t fun p => p = .pc ∨ ∃ k, k < bytes.length ∧ p = .memByte (s.dataAddr k) :=
  ⟨_, h, fun _ hk => Memory.read_writeBytes_at hm.1 hk, rfl, Memory.writeBytes_wf hm hfit,
    (onlyChanges_setMem_writeBytes hm _ fun k hk => .inr ⟨k, hk, rfl⟩).trans (onlyChanges_advance _ (.inl rfl))⟩

/-- Settles O36: the bytes stored are the three digits, each below 256. -/
theorem storeBcdStoresTheThreeDigits : Obligations.StoreBcdStoresTheThreeDigits := by
  intro s x hm hfit
  obtain ⟨t, hexec, hread, hpc, hwf, hframe⟩ :=
    completes_of_store (bytes := bcdDigits (s.reg x)) hm hfit (exec_ldB_of_le s x hfit)
  have hlen : (bcdDigits (s.reg x)).length = 3 := rfl
  have h0 : t.mem.read (s.dataAddr 0) = BitVec.ofNat 8 ((s.reg x).toNat / 100) := hread 0 (by omega)
  have h1 : t.mem.read (s.dataAddr 1) = BitVec.ofNat 8 ((s.reg x).toNat / 10 % 10) := hread 1 (by omega)
  have h2 : t.mem.read (s.dataAddr 2) = BitVec.ofNat 8 ((s.reg x).toNat % 10) := hread 2 (by omega)
  have hbyte := (s.reg x).isLt
  refine ⟨t, hexec, fun _ => rfl, ?_, ?_, ?_, hpc, hwf, hframe⟩
  · rw [h0, BitVec.toNat_ofNat]; omega
  · rw [h1, BitVec.toNat_ofNat]; omega
  · rw [h2, BitVec.toNat_ofNat]; omega

/-- Settles O37: the bytes stored are the registers x[0] to x[X]. -/
theorem storeRangeStoresTheRegisters : Obligations.StoreRangeStoresTheRegisters := by
  intro s x hm hfit
  obtain ⟨t, hexec, hread, hpc, hwf, hframe⟩ :=
    completes_of_store hm (by rw [State.length_regRange]; exact hfit) (exec_ldMemVx_of_le s x hfit)
  refine ⟨t, hexec, fun _ => rfl, fun k hk => ?_, hpc, hwf, hframe.mono ?_⟩
  · have hk' : k.toNat < (s.regRange x).length := by
      rw [State.length_regRange]
      exact Nat.lt_succ_of_le hk
    rw [hread k.toNat hk', State.getElem_regRange, BitVec.ofNat_toNat, BitVec.setWidth_eq]
  · rintro p (rfl | ⟨k, hk, rfl⟩)
    · exact .inl rfl
    · rw [State.length_regRange] at hk
      have hx := x.isLt
      have hk16 : (BitVec.ofNat 4 k).toNat = k := by simp; omega
      exact .inr ⟨BitVec.ofNat 4 k, by rw [BitVec.le_def, hk16]; omega, by rw [hk16]⟩

end Stores

/-! ## LD Vx,[I] and the reports out of range -/

/-- Settles O38: the registers written are x[0] to x[X], with the bytes from `I` on. -/
theorem loadRangeLoadsTheRegisters : Obligations.LoadRangeLoadsTheRegisters := by
  intro s x hfit
  have hx := x.isLt
  have hlen : (s.mem.readBytes s.I.toNat (rangeCount x)).length = x.toNat + 1 := Memory.length_readBytes ..
  refine ⟨_, exec_ldVxMem_of_le s x hfit, fun k hk => ?_, congrArg (· + 2) (State.setRegsFrom_pc s 0 _), ?_⟩
  · have hk' : k.toNat ≤ x.toNat := hk
    have hin : k.toNat < (s.mem.readBytes s.I.toNat (rangeCount x)).length := by omega
    rw [State.reg_advance, State.reg_setRegsFrom _ _ _ _ (by omega), if_pos (by omega), Nat.sub_zero,
      List.getD_eq_getElem _ _ hin, Memory.getElem_readBytes]
  · refine (onlyChanges_setRegsFrom s 0 _ fun k hk => .inr ⟨BitVec.ofNat 4 (0 + k), ?_, rfl⟩).trans
      (onlyChanges_advance _ (.inl rfl))
    rw [BitVec.le_def, BitVec.toNat_ofNat]
    omega

/-- Settles O39: out of range each of the three is its report alone. -/
theorem dataOutOfRangeReportsAndTransfersNothing : Obligations.DataOutOfRangeReportsAndTransfersNothing := by
  intro s x i hout
  have hexec : exec i s = .next (s.raise (.memoryOutOfRange .data s.I)) := by
    rcases hout with ⟨rfl, h⟩ | ⟨rfl | rfl, h⟩
    · exact exec_ldB_of_lt s x h
    · exact exec_ldMemVx_of_lt s x h
    · exact exec_ldVxMem_of_lt s x h
  exact ⟨_, hexec, rfl, rfl, rfl, onlyChanges_raise_of_pc s _ rfl⟩

/-! ## What is fetched after a store, and the host's load -/

/-- Settles O40: each of the three writes a run of bytes, and a fetch reads memory as it stands. -/
theorem storedBytesAreFetchedAtOnce : Obligations.StoredBytesAreFetchedAtOnce := by
  intro s hm
  refine ⟨fun x hfit => ⟨_, exec_ldB_of_le s x hfit, fetchesStored_of_writeBytes hm rfl rfl fun k hk => ?_⟩,
    fun x hfit => ⟨_, exec_ldMemVx_of_le s x hfit,
      fetchesStored_of_writeBytes hm rfl (State.length_regRange s x) fun k hk => ?_⟩,
    fun bytes offset hfit => ⟨_, rfl, fetchesStored_of_writeBytes hm ?_ rfl fun _ _ => rfl⟩⟩
  · interval_cases k <;> rfl
  · have hk' : k < (s.regRange x).length := by rwa [State.length_regRange]
    rw [List.getD_eq_getElem _ _ hk', State.getElem_regRange]
  · rw [State.hostLoad_of_fits hfit]
    rfl

/-- Settles O53: a load that fits stores a run of bytes, one that does not is its report alone. -/
theorem loadCopiesAllOrNothing : Obligations.LoadCopiesAllOrNothing := by
  intro s bytes offset hm
  constructor
  · intro hfit
    have hload : hostStep (.load bytes offset) s = .next ((s.setMem (s.mem.writeBytes offset bytes)).setResult .ok) :=
      congrArg Host.Outcome.next (State.hostLoad_of_fits hfit)
    exact ⟨_, hload, rfl, fun k hk => Memory.read_writeBytes_at hm.1 hk,
      (onlyChanges_setMem_writeBytes hm offset fun k hk => .inr ⟨k, hk, rfl⟩).trans
        (onlyChanges_setResult _ _ (.inl rfl))⟩
  · intro hout
    have hload : hostStep (.load bytes offset) s = .next (s.record (.loadOverflow offset bytes.length)) := by
      have hno : inRange offset bytes.length = false := decide_eq_false (Nat.not_le.2 hout)
      simp [hostStep, State.hostLoad, hno]
    exact ⟨_, hload, rfl, rfl, (onlyChanges_setResult s _ (.inl rfl)).trans (onlyChanges_setReports _ _ (.inr rfl))⟩

end Sys2Proof.Machine
end

section
/-! Reset, the phases of a tick, LD Vx,K, and the host's operations on the latches (spec/10_state.md sections 7 and 10,
40_tick.md, 44_timer_key.md R213, 70_reset_and_hazards.md). -/

namespace Sys2Proof.Machine

/-- Settles O1: the fields of the reset state, and what an address that nothing has written reads as. -/
theorem resetHoldsTheSpecifiedValues : Obligations.ResetHoldsTheSpecifiedValues := by
  refine ⟨by decide, rfl, rfl, rfl, rfl, rfl, by decide, rfl, rfl, cell_clearGrid, rfl, fun a ha => ?_,
    fun a hlow _ => ?_⟩
  · exact List.getD_eq_getElem _ _ ha
  · exact List.getD_eq_default _ _ hlow

/-- A countdown leaves a timer at 0 as it is and lowers any other by one (40_tick.md R128). -/
theorem countDown_eq_ite (v : Byte) : countDown v = if v = 0 then v else v - 1 := by
  unfold countDown
  split <;> simp_all

/-- Settles O6: the tick on a decoded word, and the fields of its beginning and its end. -/
theorem tickExecutesTheDecodedInstruction : Obligations.TickExecutesTheDecodedInstruction := by
  refine ⟨fun s i hi => ?_, fun s => ⟨rfl, rfl, onlyChanges_beginTick s (.inl rfl) (.inr rfl)⟩,
    fun s => ⟨?_, ?_, rfl, onlyChanges_endTick s (.inl rfl) (.inr (.inl rfl)) (.inr (.inr rfl))⟩⟩
  · obtain ⟨t, hexec, -⟩ := exec_writesOwnParts s.beginTick i
    rw [step_of_exec hi hexec, hexec]
    rfl
  · rw [State.endTick_dt, countDown_eq_ite, ite_or]
  · rw [State.endTick_st, countDown_eq_ite, ite_or]

/-- A tick that changes neither memory nor pc leaves the same instruction at pc. -/
theorem DecodesAtPc.congr {s t : State} {i : Instr} (h : DecodesAtPc s i) (hmem : t.mem = s.mem) (hpc : t.pc = s.pc) :
    DecodesAtPc t i := by
  simpa only [DecodesAtPc, State.fetchedWord, hmem, hpc] using h

/-- Settles O42: with no key held LD Vx,K answers the state it was given, with one held it is a register write. -/
theorem waitForKeyHoldsThePc : Obligations.WaitForKeyHoldsThePc := by
  intro s x
  refine ⟨fun hkey => ⟨s, exec_ldVxK_of_none s x hkey, OnlyChanges.refl s _⟩, fun k hkey => ?_, fun hkey hi => ?_⟩
  · obtain ⟨t, hexec, hreg, hrest⟩ := completes_of_setReg s (exec_ldVxK_of_some s x k hkey)
    exact ⟨t, hexec, by rw [hreg, BitVec.toNat_setWidth_of_le (by decide)], hrest⟩
  · exact ⟨_, step_of_exec hi (exec_ldVxK_of_none s.beginTick x hkey),
      hi.congr (State.endTick_mem _) (State.endTick_pc _)⟩

/-- Settles O55: each is one write of its latch, and a code of 16 or more is refused. -/
theorem keyEventsAndPauseChangeOnlyTheirLatch : Obligations.KeyEventsAndPauseChangeOnlyTheirLatch := by
  intro s
  refine ⟨fun k => ⟨s.setKey (some k), ?_, rfl, onlyChanges_setKey s _ rfl⟩,
    fun code hcode => if_neg (Nat.not_lt.2 hcode), ⟨_, rfl, rfl, onlyChanges_setKey s _ rfl⟩, ⟨_, rfl, rfl, onlyChanges_setPaused s _ rfl⟩,
    ⟨_, rfl, rfl, onlyChanges_setPaused s _ rfl⟩, rfl⟩
  show (if k.toNat < 16 then _ else _) = _
  rw [if_pos k.isLt, BitVec.ofNat_toNat, BitVec.setWidth_eq]

/-- Settles O56: `hostInit` is the reset state with the record and the index written back. -/
theorem initializeIsAFullReset : Obligations.InitializeIsAFullReset := fun s =>
  ⟨s.hostInit, rfl, rfl, rfl,
    (onlyChanges_setReports State.reset _ (.inl rfl)).trans (onlyChanges_setRandCount _ _ (.inr rfl))⟩

end Sys2Proof.Machine
end

section
/-! Composite-sprite in closed form (spec/45_display.md R231 to R233, R236) and DRW (R235). -/

namespace Sys2Proof.Machine

section Composite
variable (x y : Nat) (row : Byte) (rows : List Byte) (r : Fin Config.gridH) (c : Fin Config.gridW)

/-- A sprite bit 1 of one row falls on the cell (R231). -/
abbrev RowBit : Prop := r = gridRow y ∧ ∃ j, j < 8 ∧ c = gridCol (x + j) ∧ row.getLsbD (7 - j) = true

/-- A sprite bit 1 falls on the cell: of row `i` at row `(y + i) mod 32`, bit 7 leftmost (R231). -/
abbrev SpriteBit : Prop := ∃ i : Fin rows.length, ∃ j : Fin 8,
  (y + i.val) % 32 = r.val ∧ (x + j.val) % 64 = c.val ∧ (rows[i]).getLsbD (7 - j.val) = true

variable {x y row rows r c}

/-- A sprite without rows has no bits. -/
theorem not_spriteBit_nil : ¬ SpriteBit x y [] r c := fun ⟨i, _⟩ => i.elim0

/-- The bits of a sprite are those of its first row and those of the others. -/
theorem spriteBit_cons : SpriteBit x y (row :: rows) r c ↔ RowBit x y row r c ∨ SpriteBit x (y + 1) rows r c := by
  constructor
  · rintro ⟨⟨i, hi⟩, j, hr, hc, hbit⟩
    cases i with
    | zero => exact .inl ⟨Fin.ext hr.symm, j, j.isLt, Fin.ext hc.symm, hbit⟩
    | succ i => exact .inr ⟨⟨i, Nat.lt_of_succ_lt_succ hi⟩, j, by rw [← hr]; congr 1; simp only; omega, hc, hbit⟩
  · rintro (⟨hr, j, hj, hc, hbit⟩ | ⟨i, j, hr, hc, hbit⟩)
    · exact ⟨⟨0, Nat.succ_pos _⟩, ⟨j, hj⟩, congrArg Fin.val hr.symm, congrArg Fin.val hc.symm, hbit⟩
    · exact ⟨i.succ, j, by rw [← hr]; congr 1; simp only [Fin.val_succ]; omega, hc, hbit⟩

/-- The rows of a sprite of at most 32 rows are distinct: no cell gets a bit of the first and of another (R233). -/
theorem not_rowBit_and_spriteBit (hlen : (row :: rows).length ≤ 32) :
    ¬ (RowBit x y row r c ∧ SpriteBit x (y + 1) rows r c) := by
  rintro ⟨⟨rfl, -⟩, i, -, hr, -⟩
  have hi := i.isLt
  simp only [List.length_cons, gridRow] at hlen hr
  omega

/-- A cell after the rows of Composite: toggled iff a sprite bit 1 fell on it. -/
theorem cell_compositeRows (hlen : rows.length ≤ 32) (acc : Grid × Bool) :
    (compositeRows x y rows acc).1.cell r c = (acc.1.cell r c ^^ decide (SpriteBit x y rows r c)) := by
  induction rows generalizing y acc with
  | nil => rw [compositeRows, decide_eq_false not_spriteBit_nil, Bool.xor_false]
  | cons row rows ih =>
    rw [compositeRows, ih (Nat.le_of_succ_le hlen), compositeRow_eq, cell_rowPixels _ _ _ _ _ _ _ le_rfl,
      Bool.xor_assoc]
    congr 1
    exact decide_xor_of_exclusive spriteBit_cons (not_rowBit_and_spriteBit hlen)

/-- One row of Composite collides iff a sprite bit 1 of it falls on a cell that is on. -/
theorem collision_compositeRow (acc : Grid × Bool) : (compositeRow x y row acc).2 = true ↔
    acc.2 = true ∨ ∃ r c, RowBit x y row r c ∧ acc.1.cell r c = true := by
  rw [compositeRow_eq, collision_rowPixels _ _ _ _ _ le_rfl]
  refine or_congr_right ⟨?_, ?_⟩
  · rintro ⟨j, hj, hbit, hon⟩
    exact ⟨_, _, ⟨rfl, j, hj, rfl, hbit⟩, hon⟩
  · rintro ⟨r, c, ⟨rfl, j, hj, rfl, hbit⟩, hon⟩
    exact ⟨j, hj, hbit, hon⟩

/-- The rows of Composite collide iff a sprite bit 1 falls on a cell that was on before the first of them (R232). -/
theorem collision_compositeRows (hlen : rows.length ≤ 32) (acc : Grid × Bool) : (compositeRows x y rows acc).2 = true ↔
    acc.2 = true ∨ ∃ r c, SpriteBit x y rows r c ∧ acc.1.cell r c = true := by
  induction rows generalizing y acc with
  | nil => simp [compositeRows]
  | cons row rows ih =>
    have hkept (r c) (hbit : SpriteBit x (y + 1) rows r c) :
        (compositeRow x y row acc).1.cell r c = acc.1.cell r c := by
      have hno : ¬ RowBit x y row r c := fun h => not_rowBit_and_spriteBit hlen ⟨h, hbit⟩
      rw [compositeRow_eq, cell_rowPixels _ _ _ _ _ _ _ le_rfl, decide_eq_false hno, Bool.xor_false]
    rw [compositeRows, ih (Nat.le_of_succ_le hlen), collision_compositeRow, or_assoc]
    refine or_congr_right ⟨?_, ?_⟩
    · rintro (⟨r, c, hbit, hon⟩ | ⟨r, c, hbit, hon⟩)
      · exact ⟨r, c, spriteBit_cons.2 (.inl hbit), hon⟩
      · exact ⟨r, c, spriteBit_cons.2 (.inr hbit), (hkept r c hbit).symm.trans hon⟩
    · rintro ⟨r, c, hbit, hon⟩
      rcases spriteBit_cons.1 hbit with hbit | hbit
      · exact .inl ⟨r, c, hbit, hon⟩
      · exact .inr ⟨r, c, hbit, (hkept r c hbit).trans hon⟩

/-- A cell after Composite, for a sprite of at most 15 rows. -/
theorem cell_composite (hlen : rows.length ≤ 15) (g : Grid) :
    (composite x y rows g).1.cell r c = (g.cell r c ^^ decide (SpriteBit x y rows r c)) :=
  cell_compositeRows (hlen.trans (by decide)) (g, false)

/-- The collision of Composite, for a sprite of at most 15 rows. -/
theorem collision_composite (hlen : rows.length ≤ 15) (g : Grid) :
    (composite x y rows g).2 = true ↔ ∃ r c, SpriteBit x y rows r c ∧ g.cell r c = true := by
  rw [composite, collision_compositeRows (hlen.trans (by decide))]
  simp only [Bool.false_eq_true, false_or]

end Composite

/-- Settles O46: the pixel loop row by row, each row pixel by pixel. -/
theorem compositeXorsTheWrappedSprite : Obligations.CompositeXorsTheWrappedSprite := by
  intro x y rows g hlen
  refine ⟨fun r c => cell_composite hlen g, (collision_composite hlen g).trans ⟨?_, ?_⟩⟩
  · rintro ⟨r, c, ⟨i, j, hr, hc, hbit⟩, hon⟩
    exact ⟨i, j, hbit, r, c, hr.symm, hc.symm, hon⟩
  · rintro ⟨i, j, hbit, r, c, hr, hc, hon⟩
    exact ⟨r, c, ⟨i, j, hr.symm, hc.symm, hbit⟩, hon⟩

/-- Settles O47: the second exclusive or takes the first one back, and a cell that a bit fell on is on after it exactly
when it was off before. -/
theorem compositeTwiceRestoresTheGrid : Obligations.CompositeTwiceRestoresTheGrid := by
  intro x y rows g hlen
  refine ⟨Grid.ext_cell fun r c => ?_, (collision_composite hlen _).trans (exists₂_congr fun r c => ?_)⟩
  · rw [cell_composite hlen, cell_composite hlen, Bool.xor_assoc, Bool.xor_self, Bool.xor_false]
  · rw [cell_composite hlen]
    by_cases hbit : SpriteBit x y rows r c <;> cases g.cell r c <;> simp [hbit]

/-- The rows that DRW composites are those inside memory, at most N (20_memory.md R68). -/
theorem State.spriteCount_eq_min (s : State) (n : Nibble) : s.spriteCount n = min n.toNat (4096 - s.I.toNat) := by
  unfold State.spriteCount
  split
  case isTrue => rfl
  case isFalse h =>
    have hout : 4096 ≤ s.I.toNat := Nat.not_lt.1 h
    omega

/-- Settles O48: DRW is Composite of the clamped rows, the flag of its collision, a requested draw and the advance. -/
theorem drawCompositesTheClampedSprite : Obligations.DrawCompositesTheClampedSprite := by
  intro s x y n
  have hlen : (s.spriteRows n).length = s.spriteCount n := Memory.length_readBytes ..
  refine ⟨_, rfl, s.spriteRows n, hlen.trans (s.spriteCount_eq_min n), fun i hi => Memory.getElem_readBytes .., rfl, ?_,
    rfl, rfl, ?_⟩
  · simp
  · have hgrid (g : Grid) : OnlyChanges s (s.setGrid g)
        fun p => p = .reg 0xF ∨ p = .pc ∨ p = .drawReq ∨ ∃ r c, p = .pixel r c :=
      onlyChanges_setGrid s g fun r c hp => absurd (.inr (.inr (.inr ⟨r, c, rfl⟩))) hp
    exact (((hgrid _).trans (onlyChanges_setFlag _ _ (.inl rfl))).trans
      (onlyChanges_setDrawReq _ true (.inr (.inr (.inl rfl))))).trans (onlyChanges_advance _ (.inr (.inl rfl)))

end Sys2Proof.Machine
end
